-- ==== Sys2Proof/Word.lean ====
section
/-! DEFINITION. The byte, the 32-bit word and the four-byte record (spec/30_encoding.md R72, R73). -/

namespace Sys2Proof

/-- One byte of the stream, of IBUF or of FB. -/
abbrev Byte := BitVec 8

/-- A host-visible register, and the word view of a record (R11, R73). -/
abbrev Word := BitVec 32

/-- The byte view of a record, the four bytes of a window in stream order (R72). -/
structure Record where
  yByte : Byte
  x1Byte : Byte
  x2Byte : Byte
  flags : Byte
deriving DecidableEq, Repr

end Sys2Proof
end

