-- ==== Sys2Proof/Config.lean ====
section
/-! DEFINITION. The constants of R6, the parameters of R7 to R10 and R59 as one structure, and the free values. -/

namespace Sys2Proof

/-- R6: the required value of buffer byte 1. -/
def MARKER : Byte := 0x1C#8
/-- R6: amount added when an extension bit is set. -/
def EXT_ADD : Nat := 255
/-- R6: pixel value written by a paint. -/
def PIX_ON : Byte := 255#8
/-- R6: pixel value written by the clear. -/
def PIX_OFF : Byte := 0#8
/-- R6: bytes before the first record. -/
def HDR_LEN : Nat := 2
/-- R6: record stride in bytes. -/
def REC_LEN : Nat := 4
/-- R6: low flag field of the flags byte; a non-zero value means skip. -/
def MK_MASK : Byte := 0x1F#8
/-- R6, R74: y extension bit of the flags byte. -/
def EY_BIT : Byte := 0x20#8
/-- R6, R74: x2 extension bit of the flags byte. -/
def EX2_BIT : Byte := 0x40#8
/-- R6, R74: x1 extension bit of the flags byte. -/
def EX1_BIT : Byte := 0x80#8

/-- The parameters of one SRD (R7 to R10, R59; D2, D10, D28). The calibration offsets and the valid
extent default to the reference geometry; `ibufSize` and the bases are OPEN and have no default. -/
structure Config where
  /-- `Y_OFF` (R7). -/
  yOff : Nat := 11
  /-- `X_OFF` (R7), the same for x1 and x2. -/
  xOff : Nat := 41
  /-- `Y_MAX` (R8), inclusive. -/
  yMax : Nat := 289
  /-- `X_MAX` (R8), inclusive. -/
  xMax : Nat := 356
  /-- `IBUF_SIZE` (R10), OPEN. -/
  ibufSize : Nat
  /-- `REG_BASE` (R59), OPEN. -/
  regBase : Nat
  /-- `IBUF_BASE` (R59), OPEN. -/
  ibufBase : Nat
  /-- `FB_BASE` (R59), OPEN. -/
  fbBase : Nat
deriving DecidableEq, Repr

/-- R9: `FB_H = Y_MAX + 1`. -/
def Config.fbH (c : Config) : Nat := c.yMax + 1
/-- R9: `FB_W = X_MAX + 1`. -/
def Config.fbW (c : Config) : Nat := c.xMax + 1
/-- R9: `FB_SIZE = FB_H * FB_W`. -/
def Config.fbSize (c : Config) : Nat := c.fbH * c.fbW
/-- Bytes that the five registers of REG take (R22, R50). -/
def Config.regSize : Nat := 0x14

/-- Two address windows share no address. -/
abbrev windowsDisjoint (base₁ size₁ base₂ size₂ : Nat) : Prop :=
  base₁ + size₁ ≤ base₂ ∨ base₂ + size₂ ≤ base₁

/-- What the spec asks of the open parameters: R10's bounds of `IBUF_SIZE`, and R59's "The three
windows do not overlap". -/
abbrev Config.wf (c : Config) : Prop :=
  (2 ≤ c.ibufSize ∧ c.ibufSize ≤ 4294967295) ∧
  windowsDisjoint c.regBase Config.regSize c.ibufBase c.ibufSize ∧
  windowsDisjoint c.regBase Config.regSize c.fbBase c.fbSize ∧
  windowsDisjoint c.ibufBase c.ibufSize c.fbBase c.fbSize

/-- The reference geometry (R7 to R9). DESIGN CHOICE (log entry 3): the OPEN parameters of the one
state `State.reset`; every statement is about every configuration. -/
def Config.reference : Config :=
  { ibufSize := 4096, regBase := 0, ibufBase := 0x10000, fbBase := 0x100000 }

/-- The calibration and the extent are the reference geometry's (R7, R8), the OPEN parameters any. -/
abbrev Config.hasReferenceGeometry (c : Config) : Prop :=
  c.yOff = 11 ∧ c.xOff = 41 ∧ c.yMax = 289 ∧ c.xMax = 356

/-- A draw of a byte (R16): the free value number `draw`, at offset `a` of a memory. -/
opaque Config.freeByte (draw a : Nat) : Byte
/-- A draw of a 32-bit value (R40, R111). -/
opaque Config.freeWord (draw : Nat) : Word
/-- A draw of one bit (R111). -/
opaque Config.freeBit (draw : Nat) : Bool

end Sys2Proof
end

