-- ==== Sys2Proof/Syntax.lean ====
section
/-! DEFINITION. The records as instructions: one constructor per row of spec/opcode_table.json. -/

namespace Sys2Proof

/-- A record, one constructor per row of the class map (R79). Every bit of the record that the row
leaves free is an operand, those that the meaning ignores too: `ext` is `W[31:29]`, `mkHi` the bits of
`MK` above its lowest set bit. -/
inductive Instr where
  /-- Row 1: the all-zero record, the stream terminator (R131). -/
  | term
  /-- Row 2: superficial marker, `MK` bit 0 set (R134). -/
  | skipB0 (ext : BitVec 3) (mkHi : BitVec 4) (x2Byte x1Byte yByte : Byte)
  /-- Row 3: superficial marker, lowest set `MK` bit is bit 1 (R134). -/
  | skipB1 (ext : BitVec 3) (mkHi : BitVec 3) (x2Byte x1Byte yByte : Byte)
  /-- Row 4: superficial marker, lowest set `MK` bit is bit 2 (R134). -/
  | skipB2 (ext : BitVec 3) (mkHi : BitVec 2) (x2Byte x1Byte yByte : Byte)
  /-- Row 5: superficial marker, lowest set `MK` bit is bit 3 (R134). -/
  | skipB3 (ext : BitVec 3) (mkHi : BitVec 1) (x2Byte x1Byte yByte : Byte)
  /-- Row 6: superficial marker, `MK = 0b10000` (R134). -/
  | skipB4 (ext : BitVec 3) (x2Byte x1Byte yByte : Byte)
  /-- Row 7: a span record (R150), `ex1`, `ex2`, `ey` the extension bits (R74). -/
  | span (ex1 ex2 ey : Bool) (x2Byte x1Byte yByte : Byte)
deriving DecidableEq, Repr

end Sys2Proof
end

