-- ==== Sys2Proof/WellFormed.lean ====
section
/-! DEFINITION. Which terms of Instr stand for a record. -/

namespace Sys2Proof

/-- A SPAN's record is not all zero: that word is TERM's (R79, row 7: "Row 7 would also match `W = 0`,
but row 1 takes that value first"). -/
def spanNotTerminator (ex1 ex2 ey : Bool) (x2Byte x1Byte yByte : Byte) : Bool :=
  ex1 || ex2 || ey || x2Byte != 0#8 || x1Byte != 0#8 || yByte != 0#8

/-- Every other term is a record of its row: the operands' types are the widths of the fields. -/
def Instr.wf : Instr → Bool
  | .term => true
  | .skipB0 .. => true
  | .skipB1 .. => true
  | .skipB2 .. => true
  | .skipB3 .. => true
  | .skipB4 .. => true
  | .span ex1 ex2 ey x2Byte x1Byte yByte => spanNotTerminator ex1 ex2 ey x2Byte x1Byte yByte

end Sys2Proof
end

