-- ==== Sys2Proof/Decode.lean ====
section
/-! DEFINITION. The class map of R77 and R79, the decoder of records and the encoder. -/

namespace Sys2Proof

/-- The three record classes (R77). -/
inductive RecordClass where
  | term
  | skip
  | span
deriving DecidableEq, Repr

/-- The class an instruction belongs to: the table's mnemonic. -/
def Instr.cls : Instr → RecordClass
  | .term => .term
  | .skipB0 .. => .skip
  | .skipB1 .. => .skip
  | .skipB2 .. => .skip
  | .skipB3 .. => .skip
  | .skipB4 .. => .skip
  | .span .. => .span

/-- R73: `W = {flags, x2Byte, x1Byte, yByte}`. -/
def Record.word (r : Record) : Word := r.flags ++ r.x2Byte ++ r.x1Byte ++ r.yByte

/-- R73 read the other way: byte `k` of the record is `W[8k+7:8k]`. -/
def recordOfWord (w : Word) : Record where
  yByte := w.extractLsb' 0 8
  x1Byte := w.extractLsb' 8 8
  x2Byte := w.extractLsb' 16 8
  flags := w.extractLsb' 24 8

/-- A record's bytes in stream order (R72). -/
def Record.bytes (r : Record) : List Byte := [r.yByte, r.x1Byte, r.x2Byte, r.flags]

/-- `MK`, the low flag field `W[28:24]` (R73, R74). -/
def fieldMK (w : Word) : BitVec 5 := w.extractLsb' 24 5
/-- `W[31:29]`, the three extension bits as one field (R73). -/
def fieldExt (w : Word) : BitVec 3 := w.extractLsb' 29 3
/-- `EX1`, `W[31]` (R73). -/
def fieldEX1 (w : Word) : Bool := w.getLsbD 31
/-- `EX2`, `W[30]` (R73). -/
def fieldEX2 (w : Word) : Bool := w.getLsbD 30
/-- `EY`, `W[29]` (R73). -/
def fieldEY (w : Word) : Bool := w.getLsbD 29

/-- R77, in its priority order. -/
def classify (w : Word) : RecordClass :=
  if w = 0#32 then .term
  else if fieldMK w ≠ 0#5 then .skip
  else .span

/-- A row of the match/mask class map (R79). -/
structure OpRow where
  cls : RecordClass
  mask : Word
  pattern : Word
deriving DecidableEq, Repr

/-- "takes the first with `(W & mask) == match`" (R79). -/
def OpRow.hits (r : OpRow) (w : Word) : Bool := (w &&& r.mask) == r.pattern

/-- R79, row 1. -/
def rowTerm : OpRow := ⟨.term, 0xFFFFFFFF#32, 0x00000000#32⟩
/-- R79, row 2. -/
def rowSkipB0 : OpRow := ⟨.skip, 0x01000000#32, 0x01000000#32⟩
/-- R79, row 3. -/
def rowSkipB1 : OpRow := ⟨.skip, 0x03000000#32, 0x02000000#32⟩
/-- R79, row 4. -/
def rowSkipB2 : OpRow := ⟨.skip, 0x07000000#32, 0x04000000#32⟩
/-- R79, row 5. -/
def rowSkipB3 : OpRow := ⟨.skip, 0x0F000000#32, 0x08000000#32⟩
/-- R79, row 6. -/
def rowSkipB4 : OpRow := ⟨.skip, 0x1F000000#32, 0x10000000#32⟩
/-- R79, row 7. -/
def rowSpan : OpRow := ⟨.span, 0x1F000000#32, 0x00000000#32⟩

/-- The class map in the order it is tested (R79). -/
def opcodeTable : List OpRow :=
  [rowTerm, rowSkipB0, rowSkipB1, rowSkipB2, rowSkipB3, rowSkipB4, rowSpan]

/-- The instruction a record is, by R79's rows in their order. Row 7 takes every word that the rows
before it leave (R78, R80: every record has a class, none is illegal). -/
def decodeWord (w : Word) : Instr :=
  let r := recordOfWord w
  if rowTerm.hits w then .term
  else if rowSkipB0.hits w then
    .skipB0 (fieldExt w) (w.extractLsb' 25 4) r.x2Byte r.x1Byte r.yByte
  else if rowSkipB1.hits w then
    .skipB1 (fieldExt w) (w.extractLsb' 26 3) r.x2Byte r.x1Byte r.yByte
  else if rowSkipB2.hits w then
    .skipB2 (fieldExt w) (w.extractLsb' 27 2) r.x2Byte r.x1Byte r.yByte
  else if rowSkipB3.hits w then
    .skipB3 (fieldExt w) (w.extractLsb' 28 1) r.x2Byte r.x1Byte r.yByte
  else if rowSkipB4.hits w then
    .skipB4 (fieldExt w) r.x2Byte r.x1Byte r.yByte
  else
    .span (fieldEX1 w) (fieldEX2 w) (fieldEY w) r.x2Byte r.x1Byte r.yByte

/-- The instruction a window's four bytes are. -/
def decodeRecord (r : Record) : Instr := decodeWord r.word

/-- Why a byte string holds no record at its front. -/
inductive DecodeReject where
  /-- Fewer than four bytes are left: they form no window (R70, R107). -/
  | partialWindow
deriving DecidableEq, Repr

/-- The record at the front of a byte string, and the bytes after it (R70, R81: always four bytes). -/
def decode : List Byte → Except DecodeReject (Instr × List Byte)
  | b0 :: b1 :: b2 :: b3 :: rest => .ok (decodeRecord ⟨b0, b1, b2, b3⟩, rest)
  | _ => .error .partialWindow

/-- The word of an instruction, from R73's fields and R79's rows. -/
def encode : Instr → Word
  | .term => 0#32
  | .skipB0 ext mkHi x2 x1 y => ext ++ mkHi ++ 0b1#1 ++ x2 ++ x1 ++ y
  | .skipB1 ext mkHi x2 x1 y => ext ++ mkHi ++ 0b10#2 ++ x2 ++ x1 ++ y
  | .skipB2 ext mkHi x2 x1 y => ext ++ mkHi ++ 0b100#3 ++ x2 ++ x1 ++ y
  | .skipB3 ext mkHi x2 x1 y => ext ++ mkHi ++ 0b1000#4 ++ x2 ++ x1 ++ y
  | .skipB4 ext x2 x1 y => ext ++ 0b10000#5 ++ x2 ++ x1 ++ y
  | .span ex1 ex2 ey x2 x1 y =>
    BitVec.ofBool ex1 ++ BitVec.ofBool ex2 ++ BitVec.ofBool ey ++ 0b00000#5 ++ x2 ++ x1 ++ y

/-- The four bytes of an instruction in stream order. -/
def encodeBytes (i : Instr) : List Byte := (recordOfWord (encode i)).bytes

/-- The host's question about a table row: the low `nbits` bits of `w`, laid out as the stream stores
them (byte `k` is `W[8k+7:8k]`, R73), read by the decoder. -/
def decodeTableWord (nbits w : Nat) : Option Instr :=
  match decode (recordOfWord (BitVec.ofNat 32 (w % 2 ^ nbits))).bytes with
  | .ok (i, _) => some i
  | .error _ => none

end Sys2Proof
end

