-- ==== Sys2Proof/Machine/State.lean ====
section
/-! DEFINITION. The state of the SRD as plain data (R20 to R46), the host's turns, faults, refusals and reset. -/

namespace Sys2Proof.Machine

/-- `s.PHASE` (R32). -/
inductive Phase where
  /-- No decode in progress. -/
  | idle
  /-- Clearing FB (R105). -/
  | clear
  /-- Reading and classifying the next window (R107). -/
  | scan
  /-- Filling the current span (R158). -/
  | paint
deriving DecidableEq, Repr

/-- The four flags of STATUS (R24 to R27). Bits 31:4 hold nothing (R28). -/
structure Status where
  /-- Bit 0 (R24). -/
  busy : Bool
  /-- Bit 1 (R25). -/
  done : Bool
  /-- Bit 2 (R26). -/
  unknownMsg : Bool
  /-- Bit 3 (R27). -/
  termSeen : Bool
deriving DecidableEq, Repr

/-- A byte memory: the bytes written since the memory last became a draw, by rising offset, and the
number of the draw that every other byte holds (log entry 5). -/
structure ByteMem where
  cells : List Host.Cell
  draw : Nat
deriving DecidableEq, Repr

/-- The three address spaces (R50). -/
inductive Space where
  | reg
  | ibuf
  | fb
deriving DecidableEq, Repr

/-- Where a host access goes: an offset in a space, or an address of the platform's map (R59). -/
inductive HostAddr where
  | offset (space : Space) (off : Nat)
  | platform (addr : Nat)
deriving DecidableEq, Repr

/-- One host access (R56). `width` is in bits; a byte write carries its byte in the low bits of `value`. -/
inductive HostAct where
  | read (place : HostAddr) (width : Nat)
  | write (place : HostAddr) (width : Nat) (value : Word)
deriving DecidableEq, Repr

/-- Whose turn it is: R15's two agents, and the platform's reset input (R200). -/
inductive Turn where
  | host (act : HostAct)
  | srd
  | reset
deriving DecidableEq, Repr

/-- Why the machine stops with a fault. The spec has none (R16), and no state that meets the
invariant reaches one: each is an access of the SRD to an offset that its space does not have. -/
inductive Fault where
  /-- Raised by a SCAN or header-check read of IBUF at or above `IBUF_SIZE`. Safe: the spec's SRD
  reads below `s.LEN` only (R52). -/
  | ibufOutsideSpace
  /-- Raised by a CLEAR or PAINT write of FB outside `[0, FB_SIZE)`. Safe: the spec's SRD writes
  inside FB only (R54). -/
  | fbOutsideSpace
deriving DecidableEq, Repr

/-- What the model gives no meaning. -/
inductive Refusal where
  /-- Raised by an arm of exec for an instruction without a meaning. Safe. No arm raises it. -/
  | notModelled (mnemonic : String)
  /-- Raised by a host access to a platform address outside the three windows (R56, R59). Safe. -/
  | unmappedAddress
  /-- Raised by a host access of a width other than 32 bits (REG) or 8 bits (IBUF, FB) (R56). Safe. -/
  | accessWidth
  /-- Raised by a 32-bit host access at a REG offset that is no multiple of 4 (R56). Safe. -/
  | misalignedRegister
  /-- Raised by a host access to a REG offset that names no register (R22, R56). Safe. -/
  | noSuchRegister
  /-- Raised by a host access to an IBUF or FB offset outside the space (R56). Safe. -/
  | outsideSpace
deriving DecidableEq, Repr

/-- All the spec gives the machine (R20), its configuration, and the model's own three fields
`draws`, `script` and `hostLog`. CTRL holds no value (R23). -/
structure State where
  /-- The parameters (R6 to R10, R59): no step changes them (log entry 1). -/
  cfg : Config
  /-- STATUS (R24 to R28). -/
  status : Status
  /-- BUF_LEN (R29). -/
  bufLen : Word
  /-- SEG_COUNT (R30). -/
  segCount : Word
  /-- MAL_COUNT (R31). -/
  malCount : Word
  /-- `s.PHASE` (R32). -/
  phase : Phase
  /-- `s.RP`, the read pointer (R33). -/
  rp : Word
  /-- `s.LEN`, the latched length (R34). -/
  len : Word
  /-- `s.CP`, the clear pointer (R35). -/
  cp : Nat
  /-- `s.REC`, the record latch (R36). -/
  latch : Record
  /-- `s.Y` (R37). -/
  y : Int
  /-- `s.X1` (R37). -/
  x1 : Int
  /-- `s.X2` (R37). -/
  x2 : Int
  /-- `s.L`, the paint column (R38). -/
  l : Int
  /-- `s.TAINT`, the ghost bit (R39). -/
  taint : Bool
  /-- FB, the frame buffer (R41). -/
  fb : ByteMem
  /-- IBUF, the input buffer (R42). -/
  ibuf : ByteMem
  /-- The model's own: how many free values have been used (log entry 4). -/
  draws : Nat
  /-- The model's own: the turns still to come, in order (log entry 2). -/
  script : List Turn
  /-- The model's own: what the host's reads returned, newest first (log entry 6). -/
  hostLog : List Word
deriving DecidableEq, Repr

/-- R45 for the configuration `c`, the two memories holding the draws `draw` and `draw + 1`. -/
def State.resetWith (c : Config) (draw : Nat) : State where
  cfg := c
  status := ⟨false, false, false, false⟩
  bufLen := 0#32
  segCount := 0#32
  malCount := 0#32
  phase := .idle
  rp := 0#32
  len := 0#32
  cp := 0
  latch := ⟨0#8, 0#8, 0#8, 0#8⟩
  y := 0
  x1 := 0
  x2 := 0
  l := 0
  taint := false
  fb := ⟨[], draw⟩
  ibuf := ⟨[], draw + 1⟩
  draws := draw + 2
  script := []
  hostLog := []

/-- The machine right after reset (R45, R200), of the reference geometry. -/
def State.reset : State := State.resetWith Config.reference 0

end Sys2Proof.Machine
end

