-- ==== Sys2Proof/Machine/Flags.lean ====
section
/-! DEFINITION. STATUS as the host reads it, and how START and finish set its flags. -/

namespace Sys2Proof.Machine

/-- STATUS as a 32-bit word: bits 3 to 0 are TERM_SEEN, UNKNOWN_MSG, DONE, BUSY (R24 to R27), bits 31:4
are reserved and read 0 (R28). -/
def Status.word (st : Status) : Word :=
  0#28 ++ BitVec.ofBool st.termSeen ++ BitVec.ofBool st.unknownMsg ++
    BitVec.ofBool st.done ++ BitVec.ofBool st.busy

/-- STATUS after an accepted START has cleared DONE, UNKNOWN_MSG and TERM_SEEN and set BUSY (R100). -/
def Status.started : Status := ⟨true, false, false, false⟩

/-- STATUS after finish: BUSY 0, DONE 1 (R110). -/
def Status.finished (st : Status) : Status := { st with busy := false, done := true }

end Sys2Proof.Machine
end

