-- ==== Sys2Proof/Machine/Operands.lean ====
section
/-! DEFINITION. The operand forms of a SPAN: MSB extension (R75), calibration (R151), pixel offsets (R53). -/

namespace Sys2Proof.Machine

/-- R75: the extended coordinate, `zext_9(byte) + (ext ? EXT_ADD : 0)`. The addend is 255, so this is
not a concatenation. -/
def extend (byte : Byte) (ext : Bool) : Nat := byte.toNat + (if ext then EXT_ADD else 0)

/-- R151: an exact subtraction that neither wraps nor clamps. -/
def adjust (off ext : Nat) : Int := (ext : Int) - (off : Int)

/-- Adjusted row of a SPAN (R150 steps c and d). -/
def adjustedY (c : Config) (yByte : Byte) (ey : Bool) : Int := adjust c.yOff (extend yByte ey)

/-- Adjusted column of a SPAN, x1 or x2 (R150 steps c and d). -/
def adjustedX (c : Config) (xByte : Byte) (ex : Bool) : Int := adjust c.xOff (extend xByte ex)

/-- R155, the range validator. The relation of `x1` to `x2` is not checked. -/
def spanValid (c : Config) (y x1 x2 : Int) : Bool :=
  decide (0 ≤ y ∧ y ≤ (c.yMax : Int)) &&
  decide (0 ≤ x1 ∧ x1 ≤ (c.xMax : Int)) &&
  decide (0 ≤ x2 ∧ x2 ≤ (c.xMax : Int))

/-- R53: pixel `frame[y][x]` is the FB byte at `y * FB_W + x`. -/
def pixelOffset (c : Config) (y x : Int) : Int := y * (c.fbW : Int) + x

end Sys2Proof.Machine
end

