-- ==== Sys2Proof/Machine/Ops.lean ====
section
/-! DEFINITION. Byte memories, draws, the SRD's two memory accesses, the conditions and finish. -/

namespace Sys2Proof.Machine

/-- What a step, a meaning or a host access answers. -/
abbrev Result := Host.Outcome State Fault Refusal

/-- The byte listed at offset `a`, if one is. -/
def lookupCell (a : Nat) : List Host.Cell → Option Byte
  | [] => none
  | (b, v) :: rest => if a = b then some v else lookupCell a rest

/-- The list with `v` at offset `a`, by rising offset. -/
def insertCell (a : Nat) (v : Byte) : List Host.Cell → List Host.Cell
  | [] => [(a, v)]
  | (b, w) :: rest =>
    if a < b then (a, v) :: (b, w) :: rest
    else if a = b then (a, v) :: rest
    else (b, w) :: insertCell a v rest

/-- The offsets of a list of cells rise strictly, each above `low` where one is given. -/
def risingFrom : Option Nat → List Host.Cell → Bool
  | _, [] => true
  | none, (b, _) :: rest => risingFrom (some b) rest
  | some low, (b, _) :: rest => decide (low < b) && risingFrom (some b) rest

/-- The canonical form: strictly rising offsets. An unlisted offset has no value of its own (it holds
its draw), so no entry can repeat what an unlisted offset holds. -/
def ByteMem.wf (m : ByteMem) : Bool := risingFrom none m.cells

/-- Every listed offset lies below `size`. -/
def ByteMem.within (m : ByteMem) (size : Nat) : Bool := m.cells.all fun cell => decide (cell.1 < size)

/-- The byte at offset `a`: the one written there, else the draw the memory holds (R41, R42, R45). -/
def ByteMem.read (m : ByteMem) (a : Nat) : Byte :=
  (lookupCell a m.cells).getD (Config.freeByte m.draw a)

/-- The memory with byte `v` at offset `a`. -/
def ByteMem.write (m : ByteMem) (a : Nat) (v : Byte) : ByteMem :=
  { m with cells := insertCell a v m.cells }

/-- The memory whose bytes are `bytes`, at the offsets from `a` on, and else as before. -/
def ByteMem.writeAll (m : ByteMem) (a : Nat) : List Byte → ByteMem
  | [] => m
  | v :: rest => ByteMem.writeAll (m.write a v) (a + 1) rest

/-- `IBUF.MemRead(a, 1)` (R14, R52). -/
def ibufMemRead (s : State) (a : Nat) : Except Fault Byte :=
  if a < s.cfg.ibufSize then .ok (s.ibuf.read a) else .error .ibufOutsideSpace

/-- `FB.MemWrite(a, 1, v)` (R14, R53, R54). -/
def fbMemWrite (s : State) (a : Int) (v : Byte) : Except Fault State :=
  if 0 ≤ a ∧ a < (s.cfg.fbSize : Int) then .ok { s with fb := s.fb.write a.toNat v }
  else .error .fbOutsideSpace

/-- Go on with an access's value, or stop with its fault. -/
def orFault {α : Type} (r : Except Fault α) (k : α → Result) : Result :=
  match r with
  | .ok v => k v
  | .error f => .fault f

/-- The two conditions (R180). -/
inductive Condition where
  /-- Code 1, `ProtocolError.UnknownMessage`. -/
  | unknownMessage
  /-- Code 2, `ProtocolError.OutOfRange`. -/
  | outOfRange
deriving DecidableEq, Repr

/-- R180's code of a condition. -/
def Condition.code : Condition → Nat
  | .unknownMessage => 1
  | .outOfRange => 2

/-- `raise C()` (R180, R184): record the condition, transfer no control, save nothing. The machine has
no other exception entry and no return from one (R186, R187). -/
def raise (c : Condition) (s : State) : State :=
  match c with
  | .unknownMessage => { s with status := { s.status with unknownMsg := true } }
  | .outOfRange => { s with malCount := s.malCount + 1#32 }

/-- R111: every byte of FB, the two counts, UNKNOWN_MSG and TERM_SEEN become draws, each its own. -/
def taintResults (s : State) : State :=
  { s with
    fb := ⟨[], s.draws⟩
    segCount := Config.freeWord (s.draws + 1)
    malCount := Config.freeWord (s.draws + 2)
    status := { s.status with
      unknownMsg := Config.freeBit (s.draws + 3)
      termSeen := Config.freeBit (s.draws + 4) }
    draws := s.draws + 5 }

/-- R110, the completion action, less R111. -/
def finishExact (s : State) : State := { s with phase := .idle, status := s.status.finished }

/-- R110, the completion action. -/
def finish (s : State) : State :=
  if s.taint then taintResults (finishExact s) else finishExact s

/-- What a host read leaves: the value it returned, in the host's log. -/
def hostReply (v : Word) (s : State) : State := { s with hostLog := v :: s.hostLog }

/-- The next free value is used up. -/
def useDraw (s : State) : State := { s with draws := s.draws + 1 }

end Sys2Proof.Machine
end

