-- ==== Sys2Proof/Machine/Classify.lean ====
section
/-! DEFINITION. The meanings of TERM and SKIP (spec/41_record_classify.md). -/

namespace Sys2Proof.Machine

/-- R131, `term_action`: TERM_SEEN, then finish. -/
def execTerm (s : State) : Result :=
  .next (finish { s with status := { s.status with termSeen := true } })

/-- R134, `skip_action`: "no state written; s.PHASE stays SCAN". -/
def skipAction (s : State) : State := s

/-- R134, row 2 of R79. -/
def execSkipB0 (s : State) : Result := .next (skipAction s)
/-- R134, row 3 of R79. -/
def execSkipB1 (s : State) : Result := .next (skipAction s)
/-- R134, row 4 of R79. -/
def execSkipB2 (s : State) : Result := .next (skipAction s)
/-- R134, row 5 of R79. -/
def execSkipB3 (s : State) : Result := .next (skipAction s)
/-- R134, row 6 of R79. -/
def execSkipB4 (s : State) : Result := .next (skipAction s)

end Sys2Proof.Machine
end

