-- ==== Sys2Proof/Machine/Span.lean ====
section
/-! DEFINITION. The meaning of SPAN (R150 to R157) and the PAINT step (R158). -/

namespace Sys2Proof.Machine

/-- R150 steps c and d: `s.Y`, `s.X1`, `s.X2` are written for every SPAN (R153). -/
def setCoords (y x1 x2 : Int) (s : State) : State := { s with y := y, x1 := x1, x2 := x2 }

/-- R156. -/
def rejectSpan (s : State) : State := raise .outOfRange s

/-- R157. -/
def acceptSpan (s : State) : State :=
  { s with segCount := s.segCount + 1#32, l := s.x1, phase := .paint }

/-- R150, step e: the range check on the coordinates just written. -/
def checkSpan (s : State) : State :=
  if spanValid s.cfg s.y s.x1 s.x2 then acceptSpan s else rejectSpan s

/-- R150, `span_action`. -/
def execSpan (ex1 ex2 ey : Bool) (x2Byte x1Byte yByte : Byte) (s : State) : Result :=
  .next (checkSpan (setCoords (adjustedY s.cfg yByte ey) (adjustedX s.cfg x1Byte ex1)
    (adjustedX s.cfg x2Byte ex2) s))

/-- R158, one PAINT step. -/
def paintStep (s : State) : Result :=
  if s.l < s.x2 then
    orFault (fbMemWrite s (pixelOffset s.cfg s.y s.l) PIX_ON) fun s' => .next { s' with l := s'.l + 1 }
  else .next { s with phase := .scan }

end Sys2Proof.Machine
end

