-- ==== Sys2Proof/Machine/Dispatch.lean ====
section
/-! DEFINITION. One arm per constructor of Instr. -/

namespace Sys2Proof.Machine

-- The class action of a record (R107), on the state in which `s.REC` holds it and `s.RP` points past it (R130).
def exec (i : Instr) (s : State) : Host.Outcome State Fault Refusal :=
  match i with
  | .term => Sys2Proof.Machine.execTerm s
  | .skipB0 _ _ _ _ _ => Sys2Proof.Machine.execSkipB0 s
  | .skipB1 _ _ _ _ _ => Sys2Proof.Machine.execSkipB1 s
  | .skipB2 _ _ _ _ _ => Sys2Proof.Machine.execSkipB2 s
  | .skipB3 _ _ _ _ _ => Sys2Proof.Machine.execSkipB3 s
  | .skipB4 _ _ _ _ => Sys2Proof.Machine.execSkipB4 s
  | .span ex1 ex2 ey x2Byte x1Byte yByte => Sys2Proof.Machine.execSpan ex1 ex2 ey x2Byte x1Byte yByte s

end Sys2Proof.Machine
end

