-- ==== Sys2Proof/Machine/Sequence.lean ====
section
/-! DEFINITION. START, the header check and CLEAR (R100 to R106). -/

namespace Sys2Proof.Machine

/-- R102 on failure: raise UnknownMessage, then finish. -/
def unknownMessage (s : State) : State := finish (raise .unknownMessage s)

/-- R102, part of the START step. -/
def headerCheck (s : State) : Result :=
  if s.len.toNat < HDR_LEN then .next (unknownMessage s)
  else orFault (ibufMemRead s 1) fun b =>
    if b ≠ MARKER then .next (unknownMessage s)
    else .next { s with cp := 0, phase := .clear }

/-- R100 before the header check: latch the length, clear the results, set BUSY, clear TAINT. -/
def beginDecode (s : State) : State :=
  { s with len := s.bufLen, segCount := 0#32, malCount := 0#32, status := Status.started, taint := false }

/-- R100 and R101: a START is accepted when `s.PHASE == IDLE`, else ignored. -/
def startCommand (s : State) : Result :=
  if s.phase = .idle then headerCheck (beginDecode s) else .next s

/-- R106, `scan_begin`. -/
def scanBegin (s : State) : State := { s with rp := BitVec.ofNat 32 HDR_LEN, phase := .scan }

/-- R105, one CLEAR step. -/
def clearStep (s : State) : Result :=
  if s.cp < s.cfg.fbSize then
    orFault (fbMemWrite s (s.cp : Int) PIX_OFF) fun s' => .next { s' with cp := s'.cp + 1 }
  else .next (scanBegin s)

end Sys2Proof.Machine
end

