-- ==== Sys2Proof/Machine/HostPort.lean ====
section
/-! DEFINITION. The host's accesses to REG, IBUF and FB (R22 to R31, R40, R50 to R59, R206, R207), and reset. -/

namespace Sys2Proof.Machine

/-- The five registers (R22). -/
inductive Reg where
  | ctrl
  | status
  | bufLen
  | segCount
  | malCount
deriving DecidableEq, Repr

/-- R22's register map. -/
def regOfOffset (off : Nat) : Option Reg :=
  if off = 0x00 then some .ctrl
  else if off = 0x04 then some .status
  else if off = 0x08 then some .bufLen
  else if off = 0x0C then some .segCount
  else if off = 0x10 then some .malCount
  else none

/-- R59: the space and offset of a platform address. -/
def locate (c : Config) (addr : Nat) : Option (Space × Nat) :=
  if c.regBase ≤ addr ∧ addr < c.regBase + Config.regSize then some (.reg, addr - c.regBase)
  else if c.ibufBase ≤ addr ∧ addr < c.ibufBase + c.ibufSize then some (.ibuf, addr - c.ibufBase)
  else if c.fbBase ≤ addr ∧ addr < c.fbBase + c.fbSize then some (.fb, addr - c.fbBase)
  else none

/-- The space and offset a host access goes to. -/
def resolve (c : Config) : HostAddr → Option (Space × Nat)
  | .offset space off => some (space, off)
  | .platform addr => locate c addr

/-- A count as the host reads it: a draw while BUSY, else exact (R40). -/
def readCount (v : Word) (s : State) : State :=
  if s.status.busy then useDraw (hostReply (Config.freeWord s.draws) s) else hostReply v s

/-- A host read of a register (R22, R23, R28, R29, R40). -/
def readReg (r : Reg) (s : State) : State :=
  match r with
  | .ctrl => hostReply 0#32 s
  | .status => hostReply s.status.word s
  | .bufLen => hostReply s.bufLen s
  | .segCount => readCount s.segCount s
  | .malCount => readCount s.malCount s

/-- R29: `min(v, IBUF_SIZE)`. -/
def legalLen (c : Config) (v : Word) : Word :=
  if v.toNat ≤ c.ibufSize then v else BitVec.ofNat 32 c.ibufSize

/-- R206, R207: a hazardous write while BUSY sets TAINT. -/
def hazard (s : State) : State := { s with taint := s.taint || s.status.busy }

/-- A host write of a register (R23, R28 to R31, R58, R100, R101, R207). -/
def writeReg (r : Reg) (v : Word) (s : State) : Result :=
  match r with
  | .ctrl => if v.getLsbD 0 then startCommand s else .next s
  | .status => .next s
  | .bufLen => .next { hazard s with bufLen := legalLen s.cfg v }
  | .segCount => .next s
  | .malCount => .next s

/-- R56 for REG: 32 bits, at a 4-byte-aligned offset that names a register. -/
def regPort (off width : Nat) (k : Reg → Result) : Result :=
  if width ≠ 32 then .refused .accessWidth
  else if off % 4 ≠ 0 then .refused .misalignedRegister
  else match regOfOffset off with
    | some r => k r
    | none => .refused .noSuchRegister

/-- R56 for IBUF and FB: 8 bits, at an offset of the space. -/
def bytePort (size off width : Nat) (k : Result) : Result :=
  if width ≠ 8 then .refused .accessWidth
  else if off < size then k
  else .refused .outsideSpace

/-- A host read of an FB byte: a draw while BUSY, else exact (R206). -/
def readFb (off : Nat) (s : State) : State :=
  if s.status.busy then useDraw (hostReply ((Config.freeByte s.draws off).setWidth 32) s)
  else hostReply ((s.fb.read off).setWidth 32) s

/-- A host read of an IBUF byte: exact at all times (R207). -/
def readIbuf (off : Nat) (s : State) : State := hostReply ((s.ibuf.read off).setWidth 32) s

/-- A host write of an FB byte (R206). DEDUCED (log entry 7): it stores its byte while BUSY too. -/
def writeFb (off : Nat) (v : Byte) (s : State) : State := { hazard s with fb := s.fb.write off v }

/-- A host write of an IBUF byte (R207). DEDUCED (log entry 7): it stores its byte while BUSY too. -/
def writeIbuf (off : Nat) (v : Byte) (s : State) : State := { hazard s with ibuf := s.ibuf.write off v }

/-- A host read at an offset of a space (R56). -/
def hostRead (space : Space) (off width : Nat) (s : State) : Result :=
  match space with
  | .reg => regPort off width fun r => .next (readReg r s)
  | .ibuf => bytePort s.cfg.ibufSize off width (.next (readIbuf off s))
  | .fb => bytePort s.cfg.fbSize off width (.next (readFb off s))

/-- A host write at an offset of a space (R56). -/
def hostWrite (space : Space) (off width : Nat) (v : Word) (s : State) : Result :=
  match space with
  | .reg => regPort off width fun r => writeReg r v s
  | .ibuf => bytePort s.cfg.ibufSize off width (.next (writeIbuf off (v.setWidth 8) s))
  | .fb => bytePort s.cfg.fbSize off width (.next (writeFb off (v.setWidth 8) s))

/-- One atomic host step (R15, R58). -/
def hostStep (act : HostAct) (s : State) : Result :=
  match act with
  | .read place width =>
    match resolve s.cfg place with
    | some (space, off) => hostRead space off width s
    | none => .refused .unmappedAddress
  | .write place width v =>
    match resolve s.cfg place with
    | some (space, off) => hostWrite space off width v s
    | none => .refused .unmappedAddress

/-- R200, R201: everything at R45's values, whatever the SRD was doing; FB and IBUF are new draws. The
host's own turns and log stay, and no free value is used twice. -/
def platformReset (s : State) : State :=
  { State.resetWith s.cfg s.draws with script := s.script, hostLog := s.hostLog }

end Sys2Proof.Machine
end

