-- ==== Sys2Proof/Machine/Scan.lean ====
section
/-! DEFINITION. The SCAN step (R107), the SRD's step in each phase, and whose turn it is. -/

namespace Sys2Proof.Machine

/-- The window at `s.RP`: "for k in 0..3: s.REC[k] <- IBUF.MemRead(s.RP + k, 1)" (R107). -/
def readWindow (s : State) : Except Fault Record :=
  match ibufMemRead s s.rp.toNat, ibufMemRead s (s.rp.toNat + 1),
      ibufMemRead s (s.rp.toNat + 2), ibufMemRead s (s.rp.toNat + 3) with
  | .ok b0, .ok b1, .ok b2, .ok b3 => .ok ⟨b0, b1, b2, b3⟩
  | _, _, _, _ => .error .ibufOutsideSpace

/-- The window is in the latch and `s.RP` points at the next one (R107, R130). -/
def latchWindow (r : Record) (s : State) : State :=
  { s with latch := r, rp := s.rp + BitVec.ofNat 32 REC_LEN }

/-- Fewer than four bytes are left (R107). The sum is on mathematical integers (R13). -/
def bufferEnd (s : State) : Bool := decide (s.len.toNat < s.rp.toNat + REC_LEN)

/-- R107, one SCAN step. -/
def scanStep (s : State) : Result :=
  if bufferEnd s then .next (finish s)
  else orFault (readWindow s) fun r => exec (decodeRecord r) (latchWindow r s)

/-- One step of the SRD, chosen by `s.PHASE` (R32). In IDLE it takes no step (R195). -/
def srdStep (s : State) : Result :=
  match s.phase with
  | .idle => .next s
  | .clear => clearStep s
  | .scan => scanStep s
  | .paint => paintStep s

/-- One step of the system: the next turn of the script, or the SRD's when the script is used up
(R15, R211). -/
def takeTurn (s : State) : Result :=
  match s.script with
  | [] => srdStep s
  | .srd :: rest => srdStep { s with script := rest }
  | .host act :: rest => hostStep act { s with script := rest }
  | .reset :: rest => .next (platformReset { s with script := rest })

/-- A record placed where a SCAN step reads its next window, the SRD scanning and to move: IBUF from
`HDR_LEN` on holds the record, the latched length ends after it. -/
def placeRecord (r : Record) (s : State) : State :=
  { s with
    ibuf := s.ibuf.writeAll HDR_LEN r.bytes
    rp := BitVec.ofNat 32 HDR_LEN
    len := BitVec.ofNat 32 (HDR_LEN + REC_LEN)
    phase := .scan
    status := { s.status with busy := true, done := false }
    script := .srd :: s.script }

end Sys2Proof.Machine
end

