-- ==== Sys2Proof/Machine/Step.lean ====
section
/-! DEFINITION. The step of the machine, and where a record is placed so that the next step runs it. -/

namespace Sys2Proof.Machine

/-- One step. -/
def step (s : State) : Host.Outcome State Fault Refusal := takeTurn s

/-- `s` with the record whose word is the low `nbits` bits of `w` where the next step fetches it. -/
def State.withFetchWord (s : State) (nbits w : Nat) : State :=
  placeRecord (recordOfWord (BitVec.ofNat 32 (w % 2 ^ nbits))) s

end Sys2Proof.Machine
end

