-- ==== Sys2Proof/Machine/Assembler.lean ====
section
/-! DEFINITION. The buffer notation of R82 to R87: directives, their bytes, their text, and the host's turns
that load a program. It is notation for the host's inputs, no part of the machine's step. -/

namespace Sys2Proof.Machine

/-- `PRIOR <desc>` (R87): what FB holds before the decode. -/
inductive PriorFb where
  | zero
  | fill (v : Byte)
  | any
deriving DecidableEq, Repr

/-- The directives of R83 to R87. Operands are the numbers as written. -/
inductive Directive where
  | hdr (b0 : Option Nat)
  | bytes (bs : List Nat)
  | record (yb x1b x2b f : Nat)
  | term
  | skip (mk : Nat)
  | span (y x1 x2 : Nat)
  | len (n : Nat)
  | prior (p : PriorFb)
deriving DecidableEq, Repr

/-- An operand in `[0, 255]` (R84), else refused. -/
def byteOperand (n : Nat) : Option Byte := if n ≤ 255 then some (BitVec.ofNat 8 n) else none

/-- The listed operands as bytes, if each is one. -/
def byteOperands : List Nat → Option (List Byte)
  | [] => some []
  | n :: rest =>
    match byteOperand n, byteOperands rest with
    | some b, some bs => some (b :: bs)
    | _, _ => none

/-- R86's `enc(v, off)`: the canonical byte and extension bit. A raw value above 510 has no encoding (R76). -/
def canonical (v off : Nat) : Option (Byte × Bool) :=
  let r := v + off
  if r ≤ 255 then some (BitVec.ofNat 8 r, false)
  else if r ≤ 510 then some (BitVec.ofNat 8 (r - 255), true)
  else none

/-- R86: `f = (ex1 << 7) | (ex2 << 6) | (ey << 5)`. -/
def flagsByte (ex1 ex2 ey : Bool) : Byte :=
  BitVec.ofBool ex1 ++ BitVec.ofBool ex2 ++ BitVec.ofBool ey ++ 0#5

/-- R86: the canonical record of a SPAN in adjusted coordinates; out of range it is refused. DESIGN CHOICE
(log entry 22): with `Y_OFF = X_OFF = 0` the rule's `r >= 11` does not hold, and `SPAN 0, 0, 0` gives the
all-zero record, a TERM, as its pseudocode computes it; it is not refused. -/
def assembleSpan (c : Config) (y x1 x2 : Nat) : Option Record :=
  if y ≤ c.yMax ∧ x1 ≤ c.xMax ∧ x2 ≤ c.xMax then
    match canonical y c.yOff, canonical x1 c.xOff, canonical x2 c.xOff with
    | some (yb, ey), some (x1b, ex1), some (x2b, ex2) => some ⟨yb, x1b, x2b, flagsByte ex1 ex2 ey⟩
    | _, _, _ => none
  else none

/-- The bytes a directive emits, or none where the assembler refuses it (R83 to R87). -/
def emit (c : Config) : Directive → Option (List Byte)
  | .hdr none => some [0#8, MARKER]
  | .hdr (some b0) => (byteOperand b0).map fun b => [b, MARKER]
  | .bytes bs => byteOperands bs
  | .record yb x1b x2b f => byteOperands [yb, x1b, x2b, f]
  | .term => some [0#8, 0#8, 0#8, 0#8]
  | .skip mk => if 1 ≤ mk ∧ mk ≤ 31 then byteOperands [0, 0, 0, mk] else none
  | .span y x1 x2 => (assembleSpan c y x1 x2).map Record.bytes
  | .len _ => some []
  | .prior _ => some []

/-- A buffer program assembled (R82): its bytes, the length BUF_LEN is set to, and FB before the decode. -/
structure Image where
  bytes : List Byte
  bufLen : Nat
  prior : PriorFb
deriving DecidableEq, Repr

/-- The bytes of all directives in order. -/
def emitAll (c : Config) : List Directive → Option (List Byte)
  | [] => some []
  | d :: rest =>
    match emit c d, emitAll c rest with
    | some bs, some more => some (bs ++ more)
    | _, _ => none

/-- The last `LEN n` of a program, if it has one (R87). -/
def lenDirective : List Directive → Option Nat
  | [] => none
  | .len n :: rest => some ((lenDirective rest).getD n)
  | _ :: rest => lenDirective rest

/-- The last `PRIOR` of a program; without one FB may hold any bytes (R87). -/
def priorDirective : List Directive → Option PriorFb
  | [] => none
  | .prior p :: rest => some ((priorDirective rest).getD p)
  | _ :: rest => priorDirective rest

/-- R82: "The program assembles to a byte string"; BUF_LEN is its length unless `LEN` says otherwise. -/
def assemble (c : Config) (ds : List Directive) : Option Image :=
  (emitAll c ds).map fun bs =>
    ⟨bs, (lenDirective ds).getD bs.length, (priorDirective ds).getD .any⟩

/-- A host byte write. -/
def byteWrite (space : Space) (off : Nat) (v : Byte) : Turn :=
  .host (.write (.offset space off) 8 (v.setWidth 32))

/-- The host's writes of `bytes` at the IBUF offsets from `off` on (R82). -/
def loadBytes (off : Nat) : List Byte → List Turn
  | [] => []
  | v :: rest => byteWrite .ibuf off v :: loadBytes (off + 1) rest

/-- The host's writes that give FB its `PRIOR` content (R87). -/
def priorTurns (c : Config) : PriorFb → List Turn
  | .any => []
  | .zero => (List.range c.fbSize).map fun a => byteWrite .fb a PIX_OFF
  | .fill v => (List.range c.fbSize).map fun a => byteWrite .fb a v

/-- R82, R203: how a program comes to run. The host writes FB's prior content, the bytes at IBUF offset
0 on and BUF_LEN, then CTRL = 1. DESIGN CHOICE (log entry 21): a length of 2^32 or more, which BUF_LEN
cannot hold and for which R87 gives no rule, is written modulo 2^32. -/
def Image.turns (c : Config) (im : Image) : List Turn :=
  priorTurns c im.prior ++ loadBytes 0 im.bytes ++
    [.host (.write (.offset .reg 0x08) 32 (BitVec.ofNat 32 im.bufLen)),
     .host (.write (.offset .reg 0x00) 32 1#32)]

/-- The value of a digit, decimal or hexadecimal. -/
def digitValue (ch : Char) : Option Nat :=
  let n := ch.toNat
  if 48 ≤ n ∧ n ≤ 57 then some (n - 48)
  else if 65 ≤ n ∧ n ≤ 70 then some (n - 55)
  else if 97 ≤ n ∧ n ≤ 102 then some (n - 87)
  else none

/-- The digits `cs` in base `base`, after a value `acc`. -/
def digits (base acc : Nat) : List Char → Option Nat
  | [] => some acc
  | ch :: rest =>
    match digitValue ch with
    | some d => if d < base then digits base (acc * base + d) rest else none
    | none => none

/-- R82: "Numbers are decimal, or hexadecimal with a `0x` prefix". -/
def number : List Char → Option Nat
  | [] => none
  | '0' :: 'x' :: [] => none
  | '0' :: 'x' :: rest => digits 16 0 rest
  | cs => digits 10 0 cs

/-- The words of a line: runs of characters other than blanks and commas. `cur` is the word so far,
its last character first. -/
def wordsFrom (cur : List Char) : List Char → List (List Char)
  | [] => if cur = [] then [] else [cur.reverse]
  | ch :: rest =>
    if ch = ' ' ∨ ch = '\t' ∨ ch = '\r' ∨ ch = ',' then
      if cur = [] then wordsFrom [] rest else cur.reverse :: wordsFrom [] rest
    else wordsFrom (ch :: cur) rest

/-- The lines of a text. `cur` is the line so far, its last character first. -/
def linesFrom (cur : List Char) : List Char → List (List Char)
  | [] => [cur.reverse]
  | ch :: rest => if ch = '\n' then cur.reverse :: linesFrom [] rest else linesFrom (ch :: cur) rest

/-- A line less its comment (R82: "`;` starts a comment"). -/
def stripComment (line : List Char) : List Char := line.takeWhile fun ch => ch ≠ ';'

/-- The words as numbers, if each is one. -/
def numbers : List (List Char) → Option (List Nat)
  | [] => some []
  | w :: rest =>
    match number w, numbers rest with
    | some n, some ns => some (n :: ns)
    | _, _ => none

/-- A directive of the given name with number operands, if the name takes that many (R83 to R87). -/
def numericDirective (name : List Char) (ns : List Nat) : Option Directive :=
  if name = ['H', 'D', 'R'] then
    match ns with
    | [] => some (.hdr none)
    | [b0] => some (.hdr (some b0))
    | _ => none
  else if name = ['B', 'Y', 'T', 'E', 'S'] then if ns = [] then none else some (.bytes ns)
  else if name = ['R', 'E', 'C'] then
    match ns with
    | [yb, x1b, x2b, f] => some (.record yb x1b x2b f)
    | _ => none
  else if name = ['T', 'E', 'R', 'M'] then if ns = [] then some .term else none
  else if name = ['S', 'K', 'I', 'P'] then
    match ns with
    | [mk] => some (.skip mk)
    | _ => none
  else if name = ['S', 'P', 'A', 'N'] then
    match ns with
    | [y, x1, x2] => some (.span y x1 x2)
    | _ => none
  else if name = ['L', 'E', 'N'] then
    match ns with
    | [n] => some (.len n)
    | _ => none
  else none

/-- `PRIOR zero`, `PRIOR fill v`, `PRIOR any` (R87). -/
def priorOperand : List (List Char) → Option PriorFb
  | [['z', 'e', 'r', 'o']] => some .zero
  | [['a', 'n', 'y']] => some .any
  | [['f', 'i', 'l', 'l'], w] => (number w).bind fun n => (byteOperand n).map PriorFb.fill
  | _ => none

/-- The directive on a line: none where the line is no directive, some none where it is empty. -/
def parseLine (line : List Char) : Option (Option Directive) :=
  match wordsFrom [] (stripComment line) with
  | [] => some none
  | name :: operands =>
    if name = ['P', 'R', 'I', 'O', 'R'] then
      (priorOperand operands).map fun p => some (.prior p)
    else (numbers operands).bind fun ns => (numericDirective name ns).map some

/-- The directives of the lines, if each line is one or is empty. -/
def parseLines : List (List Char) → Option (List Directive)
  | [] => some []
  | line :: rest =>
    match parseLine line, parseLines rest with
    | some none, some ds => some ds
    | some (some d), some ds => some (d :: ds)
    | _, _ => none

/-- R82: "A buffer program is a list of directives, one per line." -/
def parseProgram (text : List Char) : Option (List Directive) := parseLines (linesFrom [] text)

end Sys2Proof.Machine
end

