-- ==== Sys2Proof/Machine/Reference.lean ====
section
/-! DEFINITION. The reference function of R113, the windows of R70 and the step bound of R112. -/

namespace Sys2Proof.Machine

/-- What a decode returns (R113): the frame as a function of the offset, the two counts, UNKNOWN_MSG and
TERM_SEEN. -/
structure DecodeResult where
  fb : Nat → Byte
  seg : Nat
  mal : Nat
  unk : Bool
  term : Bool

/-- "for l in x1 .. x2 - 1: fb'[y * 357 + l] = 255" (R113), `n` columns from `l` on. -/
def refPaint (c : Config) (y l : Int) (fb : Nat → Byte) : Nat → (Nat → Byte)
  | 0 => fb
  | n + 1 =>
    refPaint c y (l + 1) (fun a => if (a : Int) = y * (c.fbW : Int) + l then PIX_ON else fb a) n

/-- `f & mask ? 255 : 0` (R113). -/
def refExt (f mask : Byte) : Int := if f &&& mask ≠ 0#8 then 255 else 0

/-- R113's bounds test. -/
abbrev refValid (c : Config) (y x1 x2 : Int) : Prop :=
  (0 ≤ y ∧ y ≤ c.yMax) ∧ (0 ≤ x1 ∧ x1 ≤ c.xMax) ∧ (0 ≤ x2 ∧ x2 ≤ c.xMax)

/-- The coordinates of a record as R113 computes them: row, first column, end column. -/
def refCoords (c : Config) (yb x1b x2b f : Byte) : Int × Int × Int :=
  ((yb.toNat : Int) + refExt f EY_BIT - c.yOff,
   (x1b.toNat : Int) + refExt f EX1_BIT - c.xOff,
   (x2b.toNat : Int) + refExt f EX2_BIT - c.xOff)

/-- R113's loop from offset `p` on, with what has been decoded so far; the first argument bounds the
number of windows. -/
def refScan (c : Config) (buf : Nat → Byte) (len : Nat) : Nat → Nat → DecodeResult → DecodeResult
  | 0, _, acc => acc
  | k + 1, p, acc =>
    if p + 4 ≤ len then
      let yb := buf p
      let x1b := buf (p + 1)
      let x2b := buf (p + 2)
      let f := buf (p + 3)
      if yb = 0#8 ∧ x1b = 0#8 ∧ x2b = 0#8 ∧ f = 0#8 then { acc with term := true }
      else if f &&& MK_MASK ≠ 0#8 then refScan c buf len k (p + 4) acc
      else
        let (y, x1, x2) := refCoords c yb x1b x2b f
        if refValid c y x1 x2 then
          refScan c buf len k (p + 4)
            { acc with seg := acc.seg + 1, fb := refPaint c y x1 acc.fb (x2 - x1).toNat }
        else refScan c buf len k (p + 4) { acc with mal := acc.mal + 1 }
    else acc

/-- The number of complete windows, `floor((LEN - 2) / 4)` (R112, R116). -/
def windowCount (len : Nat) : Nat := (len - 2) / 4

/-- What has been decoded when the scan begins: a clear frame and no record. -/
def refStart : DecodeResult := ⟨fun _ => PIX_OFF, 0, 0, false, false⟩

/-- R113's `Decode(buf, LEN, fb)`. -/
def refDecode (c : Config) (buf : Nat → Byte) (len : Nat) (fb : Nat → Byte) : DecodeResult :=
  if len < 2 ∨ buf 1 ≠ MARKER then ⟨fb, 0, 0, true, false⟩
  else refScan c buf len (windowCount len) 2 refStart

/-- The window at offset `p` of a buffer (R72). -/
def windowAt (buf : Nat → Byte) (p : Nat) : Record := ⟨buf p, buf (p + 1), buf (p + 2), buf (p + 3)⟩

/-- The windows a decode reads from offset `p` on (R70): up to the first TERM, or the last complete one. -/
def windowsFrom (buf : Nat → Byte) (len : Nat) : Nat → Nat → List Record
  | 0, _ => []
  | k + 1, p =>
    if p + 4 ≤ len then
      let r := windowAt buf p
      if classify r.word = .term then [r] else r :: windowsFrom buf len k (p + 4)
    else []

/-- The windows a decode that passes the header check reads (R70). -/
def windowsRead (buf : Nat → Byte) (len : Nat) : List Record := windowsFrom buf len (windowCount len) 2

/-- What a window adds to R112's `S`: `max(x2 - x1, 0) + 1` for an accepted SPAN, else nothing. -/
def paintSteps (c : Config) (r : Record) : Nat :=
  let (y, x1, x2) := refCoords c r.yByte r.x1Byte r.x2Byte r.flags
  if classify r.word = .span ∧ refValid c y x1 x2 then (x2 - x1).toNat + 1 else 0

/-- R112's bound on the SRD steps after an accepted START: `1 + FB_SIZE + N + 1 + S`. -/
def stepBound (c : Config) (buf : Nat → Byte) (len : Nat) : Nat :=
  1 + c.fbSize + windowCount len + 1 + ((windowsRead buf len).map (paintSteps c)).sum

/-- What the machine holds as results: FB, the two counts, UNKNOWN_MSG and TERM_SEEN. -/
def resultOf (s : State) : DecodeResult :=
  ⟨s.fb.read, s.segCount.toNat, s.malCount.toNat, s.status.unknownMsg, s.status.termSeen⟩

/-- The result that the reference function reaches from where the SRD is in its decode. -/
def outcomeOf (s : State) : DecodeResult :=
  match s.phase with
  | .idle => resultOf s
  | .clear => refScan s.cfg s.ibuf.read s.len.toNat (windowCount s.len.toNat) 2 refStart
  | .scan => refScan s.cfg s.ibuf.read s.len.toNat (windowCount s.len.toNat) s.rp.toNat (resultOf s)
  | .paint =>
    refScan s.cfg s.ibuf.read s.len.toNat (windowCount s.len.toNat) s.rp.toNat
      { resultOf s with fb := refPaint s.cfg s.y s.l s.fb.read (s.x2 - s.l).toNat }

/-- Two results agree: the same counts and flags, and the same bytes of FB, whose offsets are those
below `FB_SIZE`. -/
def DecodeResult.agree (c : Config) (r r' : DecodeResult) : Prop :=
  (∀ a, a < c.fbSize → r.fb a = r'.fb a) ∧
    r.seg = r'.seg ∧ r.mal = r'.mal ∧ r.unk = r'.unk ∧ r.term = r'.term

end Sys2Proof.Machine
end

