-- ==== Sys2Proof/Safety.lean ====
section
/-! DEFINITION. The states a run can reach, and what a run may end in. -/

namespace Sys2Proof.Machine

/-- A window may be read or a span painted: the phases after the clear (R107, R158). -/
abbrev State.decoding (s : State) : Prop := s.phase = .scan ∨ s.phase = .paint

/-- The invariant of the machine: what the spec derives for every reachable state. -/
structure Inv (s : State) : Prop where
  /-- R10, R59. -/
  cfgWf : s.cfg.wf
  /-- R32: `STATUS.BUSY = 1` iff `s.PHASE != IDLE`. -/
  busyIff : s.status.busy = true ↔ s.phase ≠ .idle
  /-- R25: BUSY and DONE never hold together. -/
  notBusyDone : s.status.busy = true → s.status.done = false
  /-- R26, R27: the header check of this decode did not fail, and no TERM has been seen. -/
  busyFlags : s.status.busy = true → s.status.unknownMsg = false ∧ s.status.termSeen = false
  /-- R29. -/
  bufLenLegal : s.bufLen.toNat ≤ s.cfg.ibufSize
  /-- R33: `s.LEN <= IBUF_SIZE`. -/
  lenLegal : s.len.toNat ≤ s.cfg.ibufSize
  /-- R35. -/
  cpRange : s.cp ≤ s.cfg.fbSize
  /-- R100, R102: a clear has a buffer with a header, and no record has been counted. -/
  clearing : s.phase = .clear → 2 ≤ s.len.toNat ∧ s.segCount = 0#32 ∧ s.malCount = 0#32
  /-- R33: `s.RP` is `2 + 4*k` and does not pass `s.LEN`. -/
  rpAligned : s.decoding → s.rp.toNat % 4 = 2 ∧ s.rp.toNat ≤ s.len.toNat
  /-- R116: no more records have been counted than windows read. -/
  counted : s.decoding → s.segCount.toNat + s.malCount.toNat ≤ (s.rp.toNat - 2) / 4
  /-- R155, R157, R158: the span being painted is valid, and `s.L` is in it or at its end. -/
  painting : s.phase = .paint →
    spanValid s.cfg s.y s.x1 s.x2 = true ∧ s.x1 ≤ s.l ∧ (s.l ≤ s.x2 ∨ s.l = s.x1)
  /-- R38. -/
  lRange : 0 ≤ s.l ∧ s.l ≤ (s.cfg.xMax : Int)
  /-- The canonical form of FB (R53). -/
  fbWf : s.fb.wf = true ∧ s.fb.within s.cfg.fbSize = true
  /-- The canonical form of IBUF (R52). -/
  ibufWf : s.ibuf.wf = true ∧ s.ibuf.within s.cfg.ibufSize = true
  /-- The draws that FB and IBUF hold are used up. -/
  drawsUsed : s.fb.draw < s.draws ∧ s.ibuf.draw < s.draws

/-- What FB holds during a decode that no hazard has touched (R41, R105, R160). -/
structure FrameInv (s : State) : Prop where
  /-- R105: what has been cleared is clear. -/
  cleared : s.phase = .clear → s.taint = false → ∀ a, a < s.cp → s.fb.read a = PIX_OFF
  /-- R41: after the clear every byte is `PIX_OFF` or `PIX_ON`. -/
  binary : s.decoding → s.taint = false →
    ∀ a, a < s.cfg.fbSize → s.fb.read a = PIX_OFF ∨ s.fb.read a = PIX_ON
  /-- R160: column `X_MAX` is never painted. -/
  lastColumn : s.decoding → s.taint = false →
    ∀ row, row < s.cfg.fbH → s.fb.read (row * s.cfg.fbW + s.cfg.xMax) = PIX_OFF

/-- The adjusted coordinates lie where R37 and R152 put them, for offsets that R75's values reach. -/
abbrev CoordInv (s : State) : Prop :=
  (-(s.cfg.yOff : Int) ≤ s.y ∧ s.y ≤ 510 - (s.cfg.yOff : Int)) ∧
  (-(s.cfg.xOff : Int) ≤ s.x1 ∧ s.x1 ≤ 510 - (s.cfg.xOff : Int)) ∧
  (-(s.cfg.xOff : Int) ≤ s.x2 ∧ s.x2 ≤ 510 - (s.cfg.xOff : Int))

/-- R16: a host access the spec defines: of a window, of the space's width, at an offset it has. -/
abbrev accessDefined (c : Config) (space : Space) (off width : Nat) : Prop :=
  match space with
  | .reg => width = 32 ∧ off ∈ [0x00, 0x04, 0x08, 0x0C, 0x10]
  | .ibuf => width = 8 ∧ off < c.ibufSize
  | .fb => width = 8 ∧ off < c.fbSize

/-- Where a host access goes, and its width. -/
def HostAct.place : HostAct → HostAddr × Nat
  | .read p w => (p, w)
  | .write p w _ => (p, w)

/-- The next turn is a host access that the spec does not define (R16, R56). -/
def undefinedAccessNext (s : State) : Prop :=
  ∃ act rest, s.script = .host act :: rest ∧
    ∀ space off, resolve s.cfg act.place.1 = some (space, off) →
      ¬ accessDefined s.cfg space off act.place.2

/-- The next turn is a platform reset. -/
def resetNext (s : State) : Prop := ∃ rest, s.script = .reset :: rest

/-- The next turn is the SRD's, and `rest` are the turns after it. -/
abbrev srdNext (s : State) (rest : List Turn) : Prop :=
  s.script = .srd :: rest ∨ (s.script = [] ∧ rest = [])

/-- The next turn is the host's access `act`, and `rest` are the turns after it. -/
abbrev hostNext (s : State) (act : HostAct) (rest : List Turn) : Prop := s.script = .host act :: rest

/-- The access is a write of CTRL with START set (R23, R100), by its offset or by its platform address. -/
def HostAct.startsDecode (c : Config) : HostAct → Prop
  | .read _ _ => False
  | .write place width v => resolve c place = some (.reg, 0x00) ∧ width = 32 ∧ v.getLsbD 0 = true

/-- The next turn is the host's write of CTRL with START set. -/
def startNext (s : State) : Prop := ∃ act rest, hostNext s act rest ∧ act.startsDecode s.cfg

/-- The record that the window at `s.RP` is (R72). -/
def windowNext (s : State) : Instr := decodeRecord (windowAt s.ibuf.read s.rp.toNat)

/-- The next turn is a SCAN step that finishes: the buffer end or a TERM (R107, R109). -/
def finishNext (s : State) : Prop :=
  (∃ rest, srdNext s rest) ∧ s.phase = .scan ∧
    (s.len.toNat < s.rp.toNat + 4 ∨ windowNext s = .term)

/-- The next turn is a SCAN step whose window is a SPAN, and `valid` is what its range check answers. -/
def spanNext (s : State) (valid : Bool) : Prop :=
  (∃ rest, srdNext s rest) ∧ s.phase = .scan ∧ s.rp.toNat + 4 ≤ s.len.toNat ∧
    ∃ ex1 ex2 ey x2b x1b yb, windowNext s = .span ex1 ex2 ey x2b x1b yb ∧
      spanValid s.cfg (adjustedY s.cfg yb ey) (adjustedX s.cfg x1b ex1) (adjustedX s.cfg x2b ex2) = valid

/-- A value that a host read can find in the state: a register's (R22) or a byte's. -/
def heldValue (s : State) (v : Word) : Prop :=
  v = 0#32 ∨ v = s.status.word ∨ v = s.bufLen ∨ v = s.segCount ∨ v = s.malCount ∨
    ∃ off, v = (s.ibuf.read off).setWidth 32 ∨ v = (s.fb.read off).setWidth 32

/-- The free value number `n` as a host read returns it (log entry 4). -/
def drawnValue (n : Nat) (v : Word) : Prop :=
  v = Config.freeWord n ∨ ∃ off, v = (Config.freeByte n off).setWidth 32

/-- `n` steps from `s`, stopping at the first fault or refusal: `Host.Core.run` of this machine. -/
def runFor : Nat → State → Host.Outcome State Fault Refusal
  | 0, s => .next s
  | n + 1, s =>
    match step s with
    | .next t => runFor n t
    | .fault f => .fault f
    | .refused r => .refused r

/-- The host writes CTRL with START set (R100), and then leaves the SRD alone. -/
def withStart (s : State) : State :=
  { s with script := [.host (.write (.offset .reg 0x00) 32 1#32)] }

end Sys2Proof.Machine
end

