-- ==== Sys2Proof/Certificates/Slice0/Obligations.lean ====
section
/-! DEFINITION. The statements about this model, each from a rule of spec/ or derived from its rules. -/

open Sys2Proof Sys2Proof.Machine

/-! ### Encoding -/

/-- R72, R73, R79: the four bytes of every well-formed instruction, of every operand value, decode to it. -/
def Obligations.DecodeEncodeRoundTrip : Prop :=
  ∀ (i : Instr) (rest : List Byte), i.wf = true → decode (encodeBytes i ++ rest) = .ok (i, rest)

/-- R78, R80: every word is the encoding of the well-formed instruction it decodes to. -/
def Obligations.EncodeDecodeKeepsEveryBit : Prop :=
  ∀ w : Word, encode (decodeWord w) = w ∧ (decodeWord w).wf = true

/-- R77: the class of the decoded record, in the rule's priority order. -/
def Obligations.RecordClassByPriority : Prop :=
  (∀ w : Word, (decodeWord w).cls =
    if w = 0#32 then .term else if w.extractLsb' 24 5 ≠ 0#5 then .skip else .span) ∧
  (0#32).extractLsb' 24 5 = 0#5

/-- R79: the rows, the first match, what rows 2 to 6 match, and row 7's fields. -/
def Obligations.OpcodeTableGivesTheClasses : Prop :=
  opcodeTable =
    [⟨.term, 0xFFFFFFFF#32, 0x00000000#32⟩, ⟨.skip, 0x01000000#32, 0x01000000#32⟩,
     ⟨.skip, 0x03000000#32, 0x02000000#32⟩, ⟨.skip, 0x07000000#32, 0x04000000#32⟩,
     ⟨.skip, 0x0F000000#32, 0x08000000#32⟩, ⟨.skip, 0x1F000000#32, 0x10000000#32⟩,
     ⟨.span, 0x1F000000#32, 0x00000000#32⟩] ∧
  (∀ w : Word, (opcodeTable.find? fun r => r.hits w).map OpRow.cls = some (decodeWord w).cls) ∧
  (∀ w : Word, w.extractLsb' 24 5 ≠ 0#5 →
    ((opcodeTable.drop 1).take 5).countP (fun r => r.hits w) = 1) ∧
  (∀ w : Word, w.extractLsb' 24 5 = 0#5 →
    ((opcodeTable.drop 1).take 5).countP (fun r => r.hits w) = 0) ∧
  (∀ w : Word, (decodeWord w).cls = .span →
    decodeWord w = .span (w.getLsbD 31) (w.getLsbD 30) (w.getLsbD 29)
      (w.extractLsb' 16 8) (w.extractLsb' 8 8) (w.extractLsb' 0 8))

/-- R78: the number of words of each class, and that they are all the words. -/
def Obligations.ClassSizes : Prop :=
  Nat.card {w : Word // (decodeWord w).cls = .term} = 1 ∧
  Nat.card {w : Word // (decodeWord w).cls = .skip} = 31 * 2 ^ 27 ∧
  Nat.card {w : Word // (decodeWord w).cls = .span} = 2 ^ 27 - 1 ∧
  1 + 31 * 2 ^ 27 + (2 ^ 27 - 1) = 2 ^ 32

/-- R72, R74: a record whose flags have `MK = 0`, other than the terminator, is a SPAN with the rule's
operands: flags bit 7 to x1, bit 6 to x2, bit 5 to y. -/
def Obligations.SpanOperandsFromBytes : Prop :=
  ∀ (yb x1b x2b f : Byte) (rest : List Byte), f &&& 0x1F#8 = 0#8 →
    ¬ (yb = 0#8 ∧ x1b = 0#8 ∧ x2b = 0#8 ∧ f = 0#8) →
    decode (yb :: x1b :: x2b :: f :: rest) =
      .ok (.span (f.getLsbD 7) (f.getLsbD 6) (f.getLsbD 5) x2b x1b yb, rest)

/-- Sample words of spec/95_test_vectors.md (V-TERM, V-SKIP, V-EXT), one of each row. -/
def Obligations.SampleWordsDecode : Prop :=
  decodeTableWord 32 0x00000000 = some .term ∧
  decodeTableWord 32 0x1F504010 = some (.skipB0 0b000#3 0b1111#4 0x50#8 0x40#8 0x10#8) ∧
  decodeTableWord 32 0x022B290B = some (.skipB1 0b000#3 0b000#3 0x2B#8 0x29#8 0x0B#8) ∧
  decodeTableWord 32 0x042B290B = some (.skipB2 0b000#3 0b00#2 0x2B#8 0x29#8 0x0B#8) ∧
  decodeTableWord 32 0x082B290B = some (.skipB3 0b000#3 0b0#1 0x2B#8 0x29#8 0x0B#8) ∧
  decodeTableWord 32 0x102B290B = some (.skipB4 0b000#3 0x2B#8 0x29#8 0x0B#8) ∧
  decodeTableWord 32 0x203C3205 = some (.span false false true 0x3C#8 0x32#8 0x05#8)

/-- R76: which bytes and extension bits give an extended value. -/
def Obligations.ExtendedValueEncodings : Prop :=
  ∀ (b : Byte) (e : Bool) (v : Nat), extend b e = v ↔
    (v ≤ 254 ∧ b = BitVec.ofNat 8 v ∧ e = false) ∨
    (256 ≤ v ∧ v ≤ 510 ∧ b = BitVec.ofNat 8 (v - 255) ∧ e = true) ∨
    (v = 255 ∧ ((b = 0xFF#8 ∧ e = false) ∨ (b = 0x00#8 ∧ e = true)))

/-- R86: in the reference geometry an in-range `SPAN y, x1, x2` assembles to a record that decodes to a
SPAN with those adjusted coordinates, and an out-of-range one is refused. -/
def Obligations.AssembledSpanKeepsItsCoordinates : Prop :=
  ∀ (c : Config) (y x1 x2 : Nat), c.hasReferenceGeometry →
    ((y ≤ 289 ∧ x1 ≤ 356 ∧ x2 ≤ 356) →
      ∃ r ex1 ex2 ey, assembleSpan c y x1 x2 = some r ∧
        decodeRecord r = .span ex1 ex2 ey r.x2Byte r.x1Byte r.yByte ∧
        adjustedY c r.yByte ey = y ∧ adjustedX c r.x1Byte ex1 = x1 ∧ adjustedX c r.x2Byte ex2 = x2 ∧
        (ey = false ∨ r.yByte ≠ 0#8) ∧ (ex1 = false ∨ r.x1Byte ≠ 0#8) ∧
        (ex2 = false ∨ r.x2Byte ≠ 0#8)) ∧
    (¬ (y ≤ 289 ∧ x1 ≤ 356 ∧ x2 ≤ 356) → assembleSpan c y x1 x2 = none)

/-! ### What each record does -/

/-- R131 with R110 and R111: TERM completes on every state. It sets TERM_SEEN and finishes; after a
hazard the results are free values (the model's draws, log entry 4), BUSY and DONE are exact. -/
def Obligations.TermStopsTheDecode : Prop :=
  ∀ s : State,
    (s.taint = false →
      exec .term s = .next { s with
        phase := .idle
        status := ⟨false, true, s.status.unknownMsg, true⟩ }) ∧
    (s.taint = true →
      exec .term s = .next { s with
        phase := .idle
        status := ⟨false, true, Config.freeBit (s.draws + 3), Config.freeBit (s.draws + 4)⟩
        fb := ⟨[], s.draws⟩
        segCount := Config.freeWord (s.draws + 1)
        malCount := Config.freeWord (s.draws + 2)
        draws := s.draws + 5 })

/-- R133, R134: a record is a SKIP exactly when a bit of `MK` is set, and every SKIP row (skipB0 to
skipB4) completes on every state and writes none of it. -/
def Obligations.SkipWritesNoState : Prop :=
  (∀ r : Record, (decodeRecord r).cls = .skip ↔ r.word ≠ 0#32 ∧ r.flags &&& 0x1F#8 ≠ 0#8) ∧
  (∀ (i : Instr) (s : State), i.cls = .skip → exec i s = .next s)

/-- R156, R182: a SPAN whose coordinates fail the range check completes: MAL_COUNT + 1, the coordinate
registers written (R153), nothing else; the phase stays. -/
def Obligations.SpanOutOfRangeIsCounted : Prop :=
  ∀ (ex1 ex2 ey : Bool) (x2b x1b yb : Byte) (s : State) (y x1 x2 : Int),
    y = (yb.toNat : Int) + (if ey then 255 else 0) - s.cfg.yOff →
    x1 = (x1b.toNat : Int) + (if ex1 then 255 else 0) - s.cfg.xOff →
    x2 = (x2b.toNat : Int) + (if ex2 then 255 else 0) - s.cfg.xOff →
    ¬ ((0 ≤ y ∧ y ≤ s.cfg.yMax) ∧ (0 ≤ x1 ∧ x1 ≤ s.cfg.xMax) ∧ (0 ≤ x2 ∧ x2 ≤ s.cfg.xMax)) →
    exec (.span ex1 ex2 ey x2b x1b yb) s =
      .next { s with y := y, x1 := x1, x2 := x2, malCount := s.malCount + 1#32 }

/-- R157: a SPAN that passes the range check completes: SEG_COUNT + 1, L at X1, phase PAINT. The
relation of x1 to x2 is no part of the condition (R155). -/
def Obligations.SpanInRangeIsAccepted : Prop :=
  ∀ (ex1 ex2 ey : Bool) (x2b x1b yb : Byte) (s : State) (y x1 x2 : Int),
    y = (yb.toNat : Int) + (if ey then 255 else 0) - s.cfg.yOff →
    x1 = (x1b.toNat : Int) + (if ex1 then 255 else 0) - s.cfg.xOff →
    x2 = (x2b.toNat : Int) + (if ex2 then 255 else 0) - s.cfg.xOff →
    ((0 ≤ y ∧ y ≤ s.cfg.yMax) ∧ (0 ≤ x1 ∧ x1 ≤ s.cfg.xMax) ∧ (0 ≤ x2 ∧ x2 ≤ s.cfg.xMax)) →
    exec (.span ex1 ex2 ey x2b x1b yb) s =
      .next { s with
        y := y, x1 := x1, x2 := x2
        segCount := s.segCount + 1#32, l := x1, phase := .paint }

/-- R151, R153: every SPAN completes, and writes the three coordinate registers with the exact
differences, in the reference geometry those of R151 in figures. -/
def Obligations.SpanCalibratesCoordinates : Prop :=
  ∀ (ex1 ex2 ey : Bool) (x2b x1b yb : Byte) (s : State), s.cfg.hasReferenceGeometry →
    ∃ t, exec (.span ex1 ex2 ey x2b x1b yb) s = .next t ∧
      t.y = (extend yb ey : Int) - 11 ∧ t.x1 = (extend x1b ex1 : Int) - 41 ∧
      t.x2 = (extend x2b ex2 : Int) - 41

/-- R154: which bytes a SPAN is accepted for in the reference geometry, coordinate by coordinate. -/
def Obligations.SpanValidityByBytes : Prop :=
  ∀ (ex1 ex2 ey : Bool) (x2b x1b yb : Byte) (s t : State), s.cfg.hasReferenceGeometry →
    exec (.span ex1 ex2 ey x2b x1b yb) s = .next t →
    ((t.segCount = s.segCount + 1#32 ∧ t.malCount = s.malCount) ↔
      ((ey = false ∧ 11 ≤ yb.toNat) ∨ (ey = true ∧ yb.toNat ≤ 45)) ∧
      ((ex1 = false ∧ 41 ≤ x1b.toNat) ∨ (ex1 = true ∧ x1b.toNat ≤ 142)) ∧
      ((ex2 = false ∧ 41 ≤ x2b.toNat) ∨ (ex2 = true ∧ x2b.toNat ≤ 142))) ∧
    ((0 ≤ t.y ∧ t.y ≤ 289) ↔ (ey = false ∧ 11 ≤ yb.toNat) ∨ (ey = true ∧ yb.toNat ≤ 45)) ∧
    ((0 ≤ t.x1 ∧ t.x1 ≤ 356) ↔ (ex1 = false ∧ 41 ≤ x1b.toNat) ∨ (ex1 = true ∧ x1b.toNat ≤ 142)) ∧
    ((0 ≤ t.x2 ∧ t.x2 ≤ 356) ↔ (ex2 = false ∧ 41 ≤ x2b.toNat) ∨ (ex2 = true ∧ x2b.toNat ≤ 142))

/-- R162: the two encodings of y = 244, and of x = 214, act alike. -/
def Obligations.AliasedEncodingsActAlike : Prop :=
  ∀ (e1 e2 : Bool) (b1 b2 : Byte) (s : State),
    exec (.span e1 e2 false b1 b2 0xFF#8) s = exec (.span e1 e2 true b1 b2 0x00#8) s ∧
    exec (.span false e1 e2 b1 0xFF#8 b2) s = exec (.span true e1 e2 b1 0x00#8 b2) s ∧
    exec (.span e1 false e2 0xFF#8 b1 b2) s = exec (.span e1 true e2 0x00#8 b1 b2) s ∧
    (s.cfg.hasReferenceGeometry → adjustedY s.cfg 0xFF#8 false = 244 ∧
      adjustedY s.cfg 0x00#8 true = 244 ∧ adjustedX s.cfg 0xFF#8 false = 214 ∧
      adjustedX s.cfg 0x00#8 true = 214)

/-- The frame of TERM, the five SKIP rows and SPAN: what a record's action leaves as it was. Only a
TERM that ends a decode with TAINT set touches FB or uses draws (R111). -/
def Obligations.RecordActionFrame : Prop :=
  ∀ (i : Instr) (s t : State), exec i s = .next t →
    (t.cfg = s.cfg ∧ t.bufLen = s.bufLen ∧ t.len = s.len ∧ t.rp = s.rp ∧ t.cp = s.cp ∧
      t.latch = s.latch ∧ t.taint = s.taint ∧ t.script = s.script ∧ t.hostLog = s.hostLog ∧
      ∀ a, t.ibuf.read a = s.ibuf.read a) ∧
    (s.taint = false ∨ i.cls ≠ .term →
      (∀ a, t.fb.read a = s.fb.read a) ∧ t.draws = s.draws ∧
      t.status.unknownMsg = s.status.unknownMsg ∧
      (i.cls ≠ .span → t.segCount = s.segCount ∧ t.malCount = s.malCount)) ∧
    (i.cls ≠ .span → t.y = s.y ∧ t.x1 = s.x1 ∧ t.x2 = s.x2 ∧ t.l = s.l) ∧
    (i.cls ≠ .term → t.status = s.status) ∧
    (i.cls = .skip → t.phase = s.phase)

/-! ### The steps of the SRD -/

/-- R107, R130: when four bytes are left at `s.RP` and they decode to `i`, the SRD's step is `i`'s action
on the state in which the latch holds them and `s.RP` points at the next window. -/
def Obligations.StepRunsDecodedRecord : Prop :=
  ∀ (s : State) (rest : List Turn) (i : Instr) (r : Record),
    srdNext s rest → s.phase = .scan → s.rp.toNat + 4 ≤ s.len.toNat →
    s.rp.toNat + 3 < s.cfg.ibufSize →
    r = ⟨s.ibuf.read s.rp.toNat, s.ibuf.read (s.rp.toNat + 1), s.ibuf.read (s.rp.toNat + 2),
      s.ibuf.read (s.rp.toNat + 3)⟩ →
    decode [r.yByte, r.x1Byte, r.x2Byte, r.flags] = .ok (i, []) →
    step s = exec i { s with script := rest, latch := r, rp := s.rp + 4#32 }

/-- R107, R110: with fewer than four bytes left the SCAN step finishes; TERM_SEEN stays as it was, and
the bytes left are not read. -/
def Obligations.ScanFinishesAtBufferEnd : Prop :=
  ∀ (s : State) (rest : List Turn), srdNext s rest → s.phase = .scan →
    s.len.toNat < s.rp.toNat + 4 → s.taint = false →
    step s = .next { s with
      script := rest
      phase := .idle
      status := ⟨false, true, s.status.unknownMsg, s.status.termSeen⟩ }

/-- R111: a decode that finishes with TAINT set. BUSY and DONE are exact; each result is a free value of
its own (the model's draws, log entry 4). -/
def Obligations.TaintedFinishDrawsResults : Prop :=
  ∀ (s : State) (rest : List Turn), srdNext s rest → s.phase = .scan →
    s.len.toNat < s.rp.toNat + 4 → s.taint = true →
    ∃ t, step s = .next t ∧ t.phase = .idle ∧ t.status.busy = false ∧ t.status.done = true ∧
      (∀ a, t.fb.read a = Config.freeByte s.draws a) ∧
      t.segCount = Config.freeWord (s.draws + 1) ∧ t.malCount = Config.freeWord (s.draws + 2) ∧
      t.status.unknownMsg = Config.freeBit (s.draws + 3) ∧
      t.status.termSeen = Config.freeBit (s.draws + 4) ∧ s.draws + 4 < t.draws ∧
      t.ibuf = s.ibuf ∧ t.bufLen = s.bufLen

/-- R105, R106: one CLEAR step. While bytes are left it writes 0 at `s.CP` and advances it; every
other byte of FB is as before. When none is left the scan begins at offset 2. -/
def Obligations.ClearStep : Prop :=
  ∀ (s : State) (rest : List Turn), srdNext s rest → s.phase = .clear →
    (s.cp < s.cfg.fbSize → ∃ m : ByteMem,
      step s = .next { s with script := rest, fb := m, cp := s.cp + 1 } ∧
      m.read s.cp = 0#8 ∧ ∀ a, a ≠ s.cp → m.read a = s.fb.read a) ∧
    (s.cfg.fbSize ≤ s.cp → step s = .next { s with script := rest, rp := 2#32, phase := .scan })

/-- R158: one PAINT step of a valid span. Before the end column it writes 255 at `y * FB_W + l` and
advances `s.L`; every other byte of FB is as before. At the end column it returns to SCAN. -/
def Obligations.PaintStep : Prop :=
  ∀ (s : State) (rest : List Turn), srdNext s rest → s.phase = .paint →
    (0 ≤ s.y ∧ s.y ≤ s.cfg.yMax) → (0 ≤ s.l ∧ s.x2 ≤ s.cfg.xMax) →
    (s.l < s.x2 → ∃ (m : ByteMem) (a : Nat), (a : Int) = s.y * (s.cfg.xMax + 1) + s.l ∧
      step s = .next { s with script := rest, fb := m, l := s.l + 1 } ∧
      m.read a = 255#8 ∧ ∀ b, b ≠ a → m.read b = s.fb.read b) ∧
    (s.x2 ≤ s.l → step s = .next { s with script := rest, phase := .scan })

/-- R159: a valid span with `x1 >= x2` counts in SEG_COUNT, and its PAINT takes one step back to SCAN
that writes no byte. -/
def Obligations.EmptySpanPaintsNothing : Prop :=
  ∀ (ex1 ex2 ey : Bool) (x2b x1b yb : Byte) (s : State),
    spanValid s.cfg (adjustedY s.cfg yb ey) (adjustedX s.cfg x1b ex1) (adjustedX s.cfg x2b ex2) = true →
    adjustedX s.cfg x2b ex2 ≤ adjustedX s.cfg x1b ex1 →
    ∃ t u, exec (.span ex1 ex2 ey x2b x1b yb) s = .next t ∧ t.segCount = s.segCount + 1#32 ∧
      t.malCount = s.malCount ∧ t.fb = s.fb ∧
      step { t with script := [] } = .next u ∧ u.phase = .scan ∧ u.fb = s.fb ∧ u.segCount = t.segCount

/-- R195, R61: in IDLE the SRD takes no step. -/
def Obligations.IdleTakesNoStep : Prop :=
  ∀ (s : State) (rest : List Turn), srdNext s rest → s.phase = .idle →
    step s = .next { s with script := rest }

/-! ### The host's accesses -/

/-- R100, R102: an accepted START whose buffer has the marker. -/
def Obligations.StartBeginsTheClear : Prop :=
  ∀ (s : State) (rest : List Turn) (v : Word),
    hostNext s (.write (.offset .reg 0x00) 32 v) rest → v.getLsbD 0 = true → s.phase = .idle →
    s.cfg.wf → 2 ≤ s.bufLen.toNat → s.ibuf.read 1 = 0x1C#8 →
    step s = .next { s with
      script := rest
      len := s.bufLen
      segCount := 0#32
      malCount := 0#32
      status := ⟨true, false, false, false⟩
      taint := false
      cp := 0
      phase := .clear }

/-- R103, R181: an accepted START whose buffer is shorter than 2 bytes or lacks the marker. No byte of
FB is written. -/
def Obligations.StartReportsUnknownMessage : Prop :=
  ∀ (s : State) (rest : List Turn) (v : Word),
    hostNext s (.write (.offset .reg 0x00) 32 v) rest → v.getLsbD 0 = true → s.phase = .idle →
    s.cfg.wf → (s.bufLen.toNat < 2 ∨ s.ibuf.read 1 ≠ 0x1C#8) →
    step s = .next { s with
      script := rest
      len := s.bufLen
      segCount := 0#32
      malCount := 0#32
      status := ⟨false, true, true, false⟩
      taint := false }

/-- R101: a START while the SRD is not idle changes no state (the host's turn is used up). -/
def Obligations.StartWhileBusyIsIgnored : Prop :=
  ∀ (s : State) (rest : List Turn) (v : Word),
    hostNext s (.write (.offset .reg 0x00) 32 v) rest → s.phase ≠ .idle →
    step s = .next { s with script := rest }

/-- R23: a CTRL write with bit 0 = 0 has no effect; an accepted one acts by bit 0 alone; CTRL reads 0. -/
def Obligations.ControlRegister : Prop :=
  ∀ (s : State) (rest : List Turn) (v : Word),
    (hostNext s (.write (.offset .reg 0x00) 32 v) rest → v.getLsbD 0 = false →
      step s = .next { s with script := rest }) ∧
    (hostNext s (.write (.offset .reg 0x00) 32 v) rest → v.getLsbD 0 = true →
      step s = step { s with script := .host (.write (.offset .reg 0x00) 32 1#32) :: rest }) ∧
    (hostNext s (.read (.offset .reg 0x00) 32) rest →
      step s = .next { s with script := rest, hostLog := 0#32 :: s.hostLog })

/-- R28, with the places of R24 to R27: a read of STATUS returns the four flags in bits 3 to 0 and 0 in
bits 31:4; a write of STATUS is ignored. -/
def Obligations.StatusRegister : Prop :=
  ∀ (s : State) (rest : List Turn) (v : Word),
    (hostNext s (.read (.offset .reg 0x04) 32) rest → ∃ w : Word,
      step s = .next { s with script := rest, hostLog := w :: s.hostLog } ∧
      w.getLsbD 0 = s.status.busy ∧ w.getLsbD 1 = s.status.done ∧
      w.getLsbD 2 = s.status.unknownMsg ∧ w.getLsbD 3 = s.status.termSeen ∧
      ∀ k, 4 ≤ k → w.getLsbD k = false) ∧
    (hostNext s (.write (.offset .reg 0x04) 32 v) rest → step s = .next { s with script := rest })

/-- R29, R207: a write of BUF_LEN stores `min(v, IBUF_SIZE)` at any time and sets TAINT while BUSY; a
read returns the stored value. -/
def Obligations.BufLenRegister : Prop :=
  ∀ (s : State) (rest : List Turn) (v : Word), s.cfg.wf →
    (hostNext s (.write (.offset .reg 0x08) 32 v) rest → ∃ n : Word,
      n.toNat = min v.toNat s.cfg.ibufSize ∧
      step s = .next { s with script := rest, bufLen := n, taint := s.taint || s.status.busy }) ∧
    (hostNext s (.read (.offset .reg 0x08) 32) rest →
      step s = .next { s with script := rest, hostLog := s.bufLen :: s.hostLog })

/-- R40, R30, R31: a read of a count returns the register while not BUSY, and a free value while BUSY (the
model's next draw, log entry 4); a host write of a count is ignored. -/
def Obligations.CountRegisters : Prop :=
  ∀ (s : State) (rest : List Turn) (v : Word),
    (hostNext s (.read (.offset .reg 0x0C) 32) rest → s.status.busy = false →
      step s = .next { s with script := rest, hostLog := s.segCount :: s.hostLog }) ∧
    (hostNext s (.read (.offset .reg 0x10) 32) rest → s.status.busy = false →
      step s = .next { s with script := rest, hostLog := s.malCount :: s.hostLog }) ∧
    (hostNext s (.read (.offset .reg 0x0C) 32) rest ∨ hostNext s (.read (.offset .reg 0x10) 32) rest →
      s.status.busy = true →
      step s = .next { s with
        script := rest, hostLog := Config.freeWord s.draws :: s.hostLog, draws := s.draws + 1 }) ∧
    (hostNext s (.write (.offset .reg 0x0C) 32 v) rest ∨
        hostNext s (.write (.offset .reg 0x10) 32 v) rest →
      step s = .next { s with script := rest })

/-- R206: a host read of FB while BUSY returns a free value (the model's next draw, log entry 4) and has
no other effect, and is exact otherwise; a host write sets TAINT while BUSY, and changes no other byte
(that it stores its byte is the model's reading while BUSY, log entry 7). -/
def Obligations.FrameBufferHostAccess : Prop :=
  ∀ (s : State) (rest : List Turn) (off : Nat) (v : Word), off < s.cfg.fbSize →
    (hostNext s (.read (.offset .fb off) 8) rest → s.status.busy = true →
      step s = .next { s with
        script := rest
        hostLog := (Config.freeByte s.draws off).setWidth 32 :: s.hostLog
        draws := s.draws + 1 }) ∧
    (hostNext s (.read (.offset .fb off) 8) rest → s.status.busy = false →
      step s = .next { s with script := rest, hostLog := (s.fb.read off).setWidth 32 :: s.hostLog }) ∧
    (hostNext s (.write (.offset .fb off) 8 v) rest → ∃ m : ByteMem,
      step s = .next { s with script := rest, fb := m, taint := s.taint || s.status.busy } ∧
      m.read off = v.setWidth 8 ∧ ∀ a, a ≠ off → m.read a = s.fb.read a)

/-- R207: host reads of IBUF are exact at all times; a host write stores its byte (while BUSY this is the
model's reading, log entry 7), changes no other, and sets TAINT while BUSY. -/
def Obligations.InputBufferHostAccess : Prop :=
  ∀ (s : State) (rest : List Turn) (off : Nat) (v : Word), off < s.cfg.ibufSize →
    (hostNext s (.read (.offset .ibuf off) 8) rest →
      step s = .next { s with script := rest, hostLog := (s.ibuf.read off).setWidth 32 :: s.hostLog }) ∧
    (hostNext s (.write (.offset .ibuf off) 8 v) rest → ∃ m : ByteMem,
      step s = .next { s with script := rest, ibuf := m, taint := s.taint || s.status.busy } ∧
      m.read off = v.setWidth 8 ∧ ∀ a, a ≠ off → m.read a = s.ibuf.read a)

/-- R16, R56: the machine is refused exactly at a host access that the spec does not define: of another
width, misaligned, at an offset that names no register, or outside a space. -/
def Obligations.OnlyUndefinedAccessesAreRefused : Prop :=
  ∀ s : State, s.cfg.wf → ((∃ r, step s = .refused r) ↔ undefinedAccessNext s)

/-- R59: with windows that do not overlap, each platform address of a window is that offset of its
space, no other address is mapped, and an access by a mapped address acts as the access at the offset.
That the window of REG takes 0x14 bytes is the model's choice (log entry 11). -/
def Obligations.AddressMap : Prop :=
  ∀ (s : State) (addr : Nat) (space : Space) (off : Nat), s.cfg.wf →
    (locate s.cfg addr = some (space, off) ↔
      match space with
      | .reg => addr = s.cfg.regBase + off ∧ off < 0x14
      | .ibuf => addr = s.cfg.ibufBase + off ∧ off < s.cfg.ibufSize
      | .fb => addr = s.cfg.fbBase + off ∧ off < s.cfg.fbSize) ∧
    ∀ (width : Nat) (v : Word) (rest : List Turn), locate s.cfg addr = some (space, off) →
      step { s with script := .host (.read (.platform addr) width) :: rest } =
        step { s with script := .host (.read (.offset space off) width) :: rest } ∧
      step { s with script := .host (.write (.platform addr) width v) :: rest } =
        step { s with script := .host (.write (.offset space off) width v) :: rest }

/-! ### Reset -/

/-- R200, R201, R45: a platform reset, whatever the SRD is doing. FB and IBUF become draws that nothing
before has used (log entries 4 and 5); the model's script and log go on. -/
def Obligations.PlatformReset : Prop :=
  ∀ (s : State) (rest : List Turn), s.script = .reset :: rest →
    ∃ t, step s = .next t ∧ t.cfg = s.cfg ∧ t.status = ⟨false, false, false, false⟩ ∧
      t.bufLen = 0#32 ∧ t.segCount = 0#32 ∧ t.malCount = 0#32 ∧ t.phase = .idle ∧ t.rp = 0#32 ∧
      t.len = 0#32 ∧ t.cp = 0 ∧ t.l = 0 ∧ t.latch = ⟨0#8, 0#8, 0#8, 0#8⟩ ∧ t.y = 0 ∧ t.x1 = 0 ∧
      t.x2 = 0 ∧ t.taint = false ∧
      (∀ a, t.fb.read a = Config.freeByte s.draws a) ∧
      (∀ a, t.ibuf.read a = Config.freeByte (s.draws + 1) a) ∧ t.draws = s.draws + 2 ∧
      t.script = rest ∧ t.hostLog = s.hostLog

/-- R45: the state after reset. That FB and IBUF hold the draws 0 and 1, and the two fields the spec
does not have, are the model's choice (log entries 2, 4, 5, 6). -/
def Obligations.ResetState : Prop :=
  State.reset.status.word = 0#32 ∧ State.reset.bufLen = 0#32 ∧ State.reset.segCount = 0#32 ∧
  State.reset.malCount = 0#32 ∧ State.reset.phase = .idle ∧ State.reset.rp = 0#32 ∧
  State.reset.len = 0#32 ∧ State.reset.cp = 0 ∧ State.reset.l = 0 ∧
  State.reset.latch = ⟨0#8, 0#8, 0#8, 0#8⟩ ∧ State.reset.y = 0 ∧ State.reset.x1 = 0 ∧
  State.reset.x2 = 0 ∧ State.reset.taint = false ∧
  (∀ a, State.reset.fb.read a = Config.freeByte 0 a) ∧
  (∀ a, State.reset.ibuf.read a = Config.freeByte 1 a) ∧
  State.reset.cfg.hasReferenceGeometry ∧ State.reset.cfg.fbSize = 103530

/-! ### Invariants and whole-machine rules -/

/-- The invariants hold after reset, for every configuration that the spec allows. -/
def Obligations.ResetMeetsTheInvariants : Prop :=
  ∀ (c : Config) (draw : Nat), c.wf →
    Inv (State.resetWith c draw) ∧ FrameInv (State.resetWith c draw) ∧
      (c.yOff ≤ 510 → c.xOff ≤ 510 → CoordInv (State.resetWith c draw))

/-- R24, R25, R29, R32, R33, R35, R38, R116: every step of any agent keeps the machine's invariant. -/
def Obligations.StepKeepsInvariant : Prop :=
  ∀ s t : State, Inv s → step s = .next t → Inv t

/-- R41, R105, R160: every step keeps what FB holds during an untouched decode. -/
def Obligations.StepKeepsFrameInvariant : Prop :=
  ∀ s t : State, Inv s → FrameInv s → step s = .next t → FrameInv t

/-- R37, R152: every step keeps the ranges of the coordinate registers, for offsets up to 510. -/
def Obligations.StepKeepsCoordinateRanges : Prop :=
  ∀ s t : State, s.cfg.yOff ≤ 510 → s.cfg.xOff ≤ 510 → CoordInv s → step s = .next t → CoordInv t

/-- R16, R54, R112: from a state that meets the invariant the machine never faults, and it goes on
unless the next turn is a host access that the spec does not define. -/
def Obligations.StepNeverFaults : Prop :=
  ∀ s : State, Inv s →
    (∀ f, step s ≠ .fault f) ∧ (¬ undefinedAccessNext s → ∃ t, step s = .next t)

/-- R41, R160: when the SRD finishes a decode that passed the header check, with no hazard, every byte of
FB is 0 or 255 and column `X_MAX` is 0. -/
def Obligations.FinishedFrameIsBinary : Prop :=
  ∀ s t : State, Inv s → FrameInv s → s.phase ≠ .idle → s.taint = false → ¬ resetNext s →
    step s = .next t → t.phase = .idle →
    (∀ a, a < t.cfg.fbSize → t.fb.read a = 0#8 ∨ t.fb.read a = 255#8) ∧
    ∀ row, row ≤ t.cfg.yMax → t.fb.read (row * (t.cfg.xMax + 1) + t.cfg.xMax) = 0#8

/-- R29, R52, R39: a step of the SRD never writes IBUF, BUF_LEN or TAINT, nor the host's log. -/
def Obligations.SrdNeverWritesItsInput : Prop :=
  ∀ (s t : State) (rest : List Turn), srdNext s rest → step s = .next t →
    t.ibuf = s.ibuf ∧ t.bufLen = s.bufLen ∧ t.len = s.len ∧ t.taint = s.taint ∧
      t.hostLog = s.hostLog ∧ t.script = rest

/-- R20, R16: no step changes a parameter, and a free value that a step uses is a new one. That the
parameters stand in the state is log entry 1, the counter and the numbers of the free values are log
entry 4: both are the model's. A step uses no free value (the host's log gets only what the state held,
a count stays, becomes 0 or grows by 1, and no decode finishes with TAINT set), or is a host read while
BUSY that returns one (R40, R206), the finish of a decode with TAINT set that uses five (R111), or a reset
that uses two (R200). Each has a number from the counter's value before the step to below its value
after, and no two of one step have the same. -/
def Obligations.ConfigurationIsFixed : Prop :=
  ∀ s t : State, step s = .next t → t.cfg = s.cfg ∧ s.draws ≤ t.draws ∧
    ((t.draws = s.draws ∧ t.fb.draw = s.fb.draw ∧ t.ibuf.draw = s.ibuf.draw ∧
        (t.hostLog = s.hostLog ∨ ∃ v, heldValue s v ∧ t.hostLog = v :: s.hostLog) ∧
        (t.segCount = s.segCount ∨ t.segCount = 0#32 ∨ t.segCount = s.segCount + 1#32) ∧
        (t.malCount = s.malCount ∨ t.malCount = 0#32 ∨ t.malCount = s.malCount + 1#32) ∧
        ¬ (s.taint = true ∧ s.phase = .scan ∧ t.phase = .idle)) ∨
      (∃ n v, s.draws ≤ n ∧ n < t.draws ∧ s.status.busy = true ∧ drawnValue n v ∧
        t = { s with script := s.script.tail, hostLog := v :: s.hostLog, draws := t.draws }) ∨
      (∃ n₁ n₂ n₃ n₄ n₅, [n₁, n₂, n₃, n₄, n₅].Nodup ∧
        (∀ n ∈ [n₁, n₂, n₃, n₄, n₅], s.draws ≤ n ∧ n < t.draws) ∧ finishNext s ∧ s.taint = true ∧
        t.fb = ⟨[], n₁⟩ ∧ t.segCount = Config.freeWord n₂ ∧ t.malCount = Config.freeWord n₃ ∧
        t.status = ⟨false, true, Config.freeBit n₄, Config.freeBit n₅⟩ ∧
        t.ibuf = s.ibuf ∧ t.hostLog = s.hostLog) ∨
      ∃ n₁ n₂, n₁ ≠ n₂ ∧ (∀ n ∈ [n₁, n₂], s.draws ≤ n ∧ n < t.draws) ∧ resetNext s ∧
        t.fb = ⟨[], n₁⟩ ∧ t.ibuf = ⟨[], n₂⟩ ∧ t.segCount = 0#32 ∧ t.malCount = 0#32 ∧
        t.status = ⟨false, false, false, false⟩ ∧ t.hostLog = s.hostLog)

/-- R33, R109: the read pointer moves only when a scan begins, to 2, and by 4 with a window read. -/
def Obligations.ReadPointerMoves : Prop :=
  ∀ s t : State, step s = .next t → ¬ resetNext s → t.rp ≠ s.rp →
    (s.phase = .clear ∧ t.phase = .scan ∧ t.rp = 2#32) ∨
    (s.phase = .scan ∧ s.rp.toNat + 4 ≤ s.len.toNat ∧ t.rp = s.rp + 4#32)

/-- R25: resets apart, DONE is set by a finish alone, which is a SCAN step of the SRD at the buffer end or
at a TERM, or the host's CTRL write with bit 0 = 1 (by either kind of address) that reports an unknown
message; and it is cleared by such a CTRL write alone, one that begins a clear. -/
def Obligations.DoneChangesOnlyAtFinishOrStart : Prop :=
  ∀ s t : State, step s = .next t → ¬ resetNext s →
    (s.status.done = false → t.status.done = true → t.phase = .idle ∧ t.status.busy = false ∧
      (finishNext s ∨
        (startNext s ∧ s.phase = .idle ∧ (s.bufLen.toNat < 2 ∨ s.ibuf.read 1 ≠ 0x1C#8)))) ∧
    (s.status.done = true → t.status.done = false →
      startNext s ∧ s.phase = .idle ∧ t.phase = .clear ∧ t.status.busy = true)

/-- R30, R31: what changes a count, resets apart: an accepted START, which is the host's CTRL write with bit
0 = 1 in IDLE (to 0); one window at `s.RP` that decodes to a SPAN (SEG_COUNT by 1 where the range check
accepts it, MAL_COUNT by 1 where it does not, the other count staying); or the finish of a decode that a
hazard touched (R111). -/
def Obligations.CountsChangeOnlyByRecords : Prop :=
  ∀ s t : State, step s = .next t → ¬ resetNext s →
    (t.segCount ≠ s.segCount →
      (startNext s ∧ s.phase = .idle ∧ t.segCount = 0#32) ∨
      (spanNext s true ∧ t.phase = .paint ∧ t.segCount = s.segCount + 1#32 ∧
        t.malCount = s.malCount) ∨
      (finishNext s ∧ t.phase = .idle ∧ s.taint = true)) ∧
    (t.malCount ≠ s.malCount →
      (startNext s ∧ s.phase = .idle ∧ t.malCount = 0#32) ∨
      (spanNext s false ∧ t.phase = .scan ∧ t.malCount = s.malCount + 1#32 ∧
        t.segCount = s.segCount) ∨
      (finishNext s ∧ t.phase = .idle ∧ s.taint = true))

/-- R11: during a decode the counts stay below `2^30`, and below the number of windows of IBUF. -/
def Obligations.CountsCannotWrap : Prop :=
  ∀ s : State, Inv s → s.status.busy = true →
    s.segCount.toNat + s.malCount.toNat ≤ (s.cfg.ibufSize - 2) / 4 ∧
    (s.cfg.ibufSize - 2) / 4 < 2 ^ 30

/-- R58: a host read of any space that the spec defines changes nothing but the host's log (one entry
more) and the count of draws. -/
def Obligations.HostReadsHaveNoSideEffects : Prop :=
  ∀ (s t : State) (place : HostAddr) (width : Nat) (rest : List Turn),
    hostNext s (.read place width) rest → step s = .next t →
    ∃ v n, s.draws ≤ n ∧ t = { s with script := rest, hostLog := v :: s.hostLog, draws := n }

/-! ### Whole decodes -/

/-- R112, R113: from every idle state that meets the invariant, an accepted START and then the SRD's steps
alone reach, within R112's number of steps, an idle state that holds exactly what the reference
function returns; BUF_LEN and IBUF are as they were. That the rule's loop is a recursion on the number of
complete windows is the model's reading (log entry 19). -/
def Obligations.DecodeMatchesReference : Prop :=
  ∀ s : State, Inv s → s.phase = .idle →
    ∃ n t, n ≤ stepBound s.cfg s.ibuf.read s.bufLen.toNat ∧ runFor (n + 1) (withStart s) = .next t ∧
      t.phase = .idle ∧ t.status.busy = false ∧ t.status.done = true ∧ t.bufLen = s.bufLen ∧
      t.ibuf = s.ibuf ∧
      (resultOf t).agree s.cfg (refDecode s.cfg s.ibuf.read s.bufLen.toNat s.fb.read)

/-- R62, R113: the same for every interleaving. While a decode runs and no hazard and no reset occurs,
every step, the SRD's or the host's, keeps what the reference function (log entry 19) reaches from there. -/
def Obligations.EveryStepKeepsTheOutcome : Prop :=
  ∀ s t : State, Inv s → FrameInv s → s.phase ≠ .idle → ¬ resetNext s → step s = .next t →
    t.taint = false → (outcomeOf t).agree s.cfg (outcomeOf s)

/-- R113: at an accepted START the outcome is the reference function's (log entry 19). -/
def Obligations.StartFixesTheOutcome : Prop :=
  ∀ (s t : State) (rest : List Turn), Inv s → s.phase = .idle →
    hostNext s (.write (.offset .reg 0x00) 32 1#32) rest → step s = .next t →
    (outcomeOf t).agree s.cfg (refDecode s.cfg s.ibuf.read s.bufLen.toNat s.fb.read)

/-- R114: two decodes of the same buffer leave the same results, whatever FB held where the header check
passes, and where it fails when FB held the same. -/
def Obligations.DecodeIsIdempotent : Prop :=
  ∀ s₁ s₂ : State, Inv s₁ → Inv s₂ → s₁.phase = .idle → s₂.phase = .idle → s₁.cfg = s₂.cfg →
    s₁.bufLen = s₂.bufLen → (∀ a, a < s₁.cfg.ibufSize → s₁.ibuf.read a = s₂.ibuf.read a) →
    ((2 ≤ s₁.bufLen.toNat ∧ s₁.ibuf.read 1 = 0x1C#8) ∨
      ∀ a, a < s₁.cfg.fbSize → s₁.fb.read a = s₂.fb.read a) →
    ∃ n₁ t₁ n₂ t₂, runFor (n₁ + 1) (withStart s₁) = .next t₁ ∧
      runFor (n₂ + 1) (withStart s₂) = .next t₂ ∧ t₁.status.done = true ∧ t₂.status.done = true ∧
      t₁.phase = .idle ∧ t₂.phase = .idle ∧ (resultOf t₁).agree s₁.cfg (resultOf t₂)

/-- R42, R52: bytes of IBUF at or above BUF_LEN do not reach a decode's results. -/
def Obligations.BytesBeyondLengthDoNotMatter : Prop :=
  ∀ s₁ s₂ : State, Inv s₁ → Inv s₂ → s₁.phase = .idle → s₂.phase = .idle → s₁.cfg = s₂.cfg →
    s₁.bufLen = s₂.bufLen → (∀ a, a < s₁.bufLen.toNat → s₁.ibuf.read a = s₂.ibuf.read a) →
    (∀ a, a < s₁.cfg.fbSize → s₁.fb.read a = s₂.fb.read a) →
    ∃ n₁ t₁ n₂ t₂, runFor (n₁ + 1) (withStart s₁) = .next t₁ ∧
      runFor (n₂ + 1) (withStart s₂) = .next t₂ ∧ t₁.status.done = true ∧ t₂.status.done = true ∧
      t₁.phase = .idle ∧ t₂.phase = .idle ∧ (resultOf t₁).agree s₁.cfg (resultOf t₂)

/-- R104: a buffer of exactly 2 bytes with the marker clears FB and reads no window. -/
def Obligations.TwoByteBufferClearsTheFrame : Prop :=
  ∀ s : State, Inv s → s.phase = .idle → s.bufLen = 2#32 → s.ibuf.read 1 = 0x1C#8 →
    ∃ n t, runFor (n + 1) (withStart s) = .next t ∧ t.phase = .idle ∧
      t.status = ⟨false, true, false, false⟩ ∧ t.segCount = 0#32 ∧ t.malCount = 0#32 ∧
      t.latch = s.latch ∧ ∀ a, a < s.cfg.fbSize → t.fb.read a = 0#8

/-- R131: a TERM as the first window leaves FB clear and the counts 0, whatever follows it. -/
def Obligations.TermFirstLeavesTheFrameClear : Prop :=
  ∀ s : State, Inv s → s.phase = .idle → 6 ≤ s.bufLen.toNat → s.ibuf.read 1 = 0x1C#8 →
    (∀ k, k < 4 → s.ibuf.read (2 + k) = 0#8) →
    ∃ n t, runFor (n + 1) (withStart s) = .next t ∧ t.phase = .idle ∧
      t.status = ⟨false, true, false, true⟩ ∧ t.segCount = 0#32 ∧ t.malCount = 0#32 ∧
      t.rp = 6#32 ∧ ∀ a, a < s.cfg.fbSize → t.fb.read a = 0#8

/-- R115: a buffer of one in-range SPAN paints exactly `[x1, x2)` of its row. -/
def Obligations.SingleRecordDecode : Prop :=
  ∀ (s : State) (ex1 ex2 ey : Bool) (x2b x1b yb : Byte) (y x1 x2 : Int),
    Inv s → s.phase = .idle → s.bufLen = 6#32 → s.ibuf.read 1 = 0x1C#8 →
    decode [s.ibuf.read 2, s.ibuf.read 3, s.ibuf.read 4, s.ibuf.read 5] =
      .ok (.span ex1 ex2 ey x2b x1b yb, []) →
    y = adjustedY s.cfg yb ey → x1 = adjustedX s.cfg x1b ex1 → x2 = adjustedX s.cfg x2b ex2 →
    spanValid s.cfg y x1 x2 = true →
    ∃ n t, runFor (n + 1) (withStart s) = .next t ∧ t.phase = .idle ∧ t.segCount = 1#32 ∧
      t.malCount = 0#32 ∧ t.status = ⟨false, true, false, false⟩ ∧
      ∀ a, a < s.cfg.fbSize → t.fb.read a =
        if y * (s.cfg.xMax + 1) + x1 ≤ (a : Int) ∧ (a : Int) < y * (s.cfg.xMax + 1) + x2 then 255#8
        else 0#8

/-- R116: every window a decode reads is counted once, as accepted, malformed, skipped or the
terminator, and they are at most `floor((LEN - 2) / 4)`. The read pointer ends 4 bytes on for each of them
from offset 2, so they are the windows that the machine read. -/
def Obligations.WindowAccounting : Prop :=
  ∀ s : State, Inv s → s.phase = .idle → 2 ≤ s.bufLen.toNat → s.ibuf.read 1 = 0x1C#8 →
    ∃ n t, runFor (n + 1) (withStart s) = .next t ∧ t.phase = .idle ∧ t.status.done = true ∧
      t.segCount.toNat + t.malCount.toNat +
        (windowsRead s.ibuf.read s.bufLen.toNat).countP (fun r => (decodeRecord r).cls = .skip) +
        t.status.termSeen.toNat = (windowsRead s.ibuf.read s.bufLen.toNat).length ∧
      t.rp.toNat = 2 + 4 * (windowsRead s.ibuf.read s.bufLen.toNat).length ∧
      (windowsRead s.ibuf.read s.bufLen.toNat).length ≤ (s.bufLen.toNat - 2) / 4

/-- R161: after a decode that passes the header check, FB is the union of the accepted spans of the
windows read, whatever their order: a byte is 255 where some accepted SPAN covers it, and 0 elsewhere. -/
def Obligations.FrameIsUnionOfSpans : Prop :=
  ∀ s : State, Inv s → s.phase = .idle → 2 ≤ s.bufLen.toNat → s.ibuf.read 1 = 0x1C#8 →
    ∃ n t, runFor (n + 1) (withStart s) = .next t ∧ t.phase = .idle ∧ t.status.done = true ∧
      ∀ a, a < s.cfg.fbSize →
        (t.fb.read a = 0#8 ∨ t.fb.read a = 255#8) ∧
        (t.fb.read a = 255#8 ↔
          ∃ r ∈ windowsRead s.ibuf.read s.bufLen.toNat, ∃ ex1 ex2 ey x2b x1b yb,
            decodeRecord r = .span ex1 ex2 ey x2b x1b yb ∧
            spanValid s.cfg (adjustedY s.cfg yb ey) (adjustedX s.cfg x1b ex1)
              (adjustedX s.cfg x2b ex2) = true ∧
            pixelOffset s.cfg (adjustedY s.cfg yb ey) (adjustedX s.cfg x1b ex1) ≤ (a : Int) ∧
            (a : Int) < pixelOffset s.cfg (adjustedY s.cfg yb ey) (adjustedX s.cfg x2b ex2))
end

