-- ==== Sys2Proof/Laws/Memory.lean ====
section
/-! SUPPORT. What every byte-memory operation does to reads, and that each keeps the canonical form. -/

namespace Sys2Proof.Machine

theorem lookupCell_insertCell_same (a : Nat) (v : Byte) (cells : List Host.Cell) :
    lookupCell a (insertCell a v cells) = some v := by
  induction cells with
  | nil => simp [insertCell, lookupCell]
  | cons cell rest ih =>
    obtain ⟨b, w⟩ := cell
    unfold insertCell
    split
    · simp [lookupCell]
    · split
      · simp [lookupCell]
      · rename_i h; simp [lookupCell, h, ih]

theorem lookupCell_insertCell_other {a b : Nat} (h : b ≠ a) (v : Byte) (cells : List Host.Cell) :
    lookupCell b (insertCell a v cells) = lookupCell b cells := by
  induction cells with
  | nil => simp [insertCell, lookupCell, h]
  | cons cell rest ih =>
    obtain ⟨c, w⟩ := cell
    unfold insertCell
    split
    · simp [lookupCell, h]
    · split
      · subst_vars; simp [lookupCell, h]
      · simp [lookupCell, ih]

@[simp] theorem ByteMem.read_write_same (m : ByteMem) (a : Nat) (v : Byte) :
    (m.write a v).read a = v := by
  simp [ByteMem.read, ByteMem.write, lookupCell_insertCell_same]

theorem ByteMem.read_write_other (m : ByteMem) {a b : Nat} (h : b ≠ a) (v : Byte) :
    (m.write a v).read b = m.read b := by
  simp [ByteMem.read, ByteMem.write, lookupCell_insertCell_other h]

theorem ByteMem.read_write (m : ByteMem) (a b : Nat) (v : Byte) :
    (m.write a v).read b = if b = a then v else m.read b := by
  split
  · subst_vars; simp
  · rename_i h; exact m.read_write_other h v

@[simp] theorem ByteMem.write_draw (m : ByteMem) (a : Nat) (v : Byte) : (m.write a v).draw = m.draw := rfl

theorem risingFrom_insertCell (a : Nat) (v : Byte) (cells : List Host.Cell) :
    ∀ low, risingFrom low cells = true → (∀ b, low = some b → b < a) →
      risingFrom low (insertCell a v cells) = true := by
  induction cells with
  | nil => intro low _ hl; cases low <;> simp_all [insertCell, risingFrom]
  | cons cell rest ih =>
    obtain ⟨b, w⟩ := cell
    intro low h hl
    unfold insertCell
    split
    · rename_i hab
      cases low <;> simp_all [risingFrom]
    · split
      · subst_vars; cases low <;> simp_all [risingFrom]
      · have hba : b < a := by omega
        cases low with
        | none => exact ih (some b) (by simpa [risingFrom] using h) (by simp [hba])
        | some c =>
          have h' : c < b ∧ risingFrom (some b) rest = true := by simpa [risingFrom] using h
          have := ih (some b) h'.2 (by simp [hba])
          simp [risingFrom, h'.1, this]

theorem ByteMem.write_wf {m : ByteMem} (h : m.wf = true) (a : Nat) (v : Byte) :
    (m.write a v).wf = true :=
  risingFrom_insertCell a v m.cells none h (by simp)

theorem all_insertCell {p : Host.Cell → Bool} {a : Nat} {v : Byte} (hp : p (a, v) = true) :
    ∀ cells : List Host.Cell, cells.all p = true → (insertCell a v cells).all p = true := by
  intro cells
  induction cells with
  | nil => simp [insertCell, hp]
  | cons cell rest ih =>
    obtain ⟨b, w⟩ := cell
    intro h
    have h' : p (b, w) = true ∧ rest.all p = true := by simpa using h
    unfold insertCell
    split
    · simp [hp, h'.1]; simpa using h'.2
    · split
      · simp [hp]; simpa using h'.2
      · have := ih h'.2
        simp [h'.1]; simpa using this

theorem ByteMem.write_within {m : ByteMem} {size a : Nat} (h : m.within size = true) (ha : a < size)
    (v : Byte) : (m.write a v).within size = true :=
  all_insertCell (by simpa using ha) m.cells h

/-- A listed offset is not below the first of a rising list. -/
theorem lookupCell_below {low : Nat} {cells : List Host.Cell} (h : risingFrom (some low) cells = true) :
    ∀ a, a ≤ low → lookupCell a cells = none := by
  induction cells generalizing low with
  | nil => simp [lookupCell]
  | cons cell rest ih =>
    obtain ⟨b, w⟩ := cell
    intro a ha
    have h' : low < b ∧ risingFrom (some b) rest = true := by simpa [risingFrom] using h
    have : a ≠ b := by omega
    simp [lookupCell, this, ih h'.2 a (by omega)]

theorem cells_ext : ∀ (low : Option Nat) (xs ys : List Host.Cell),
    risingFrom low xs = true → risingFrom low ys = true →
    (∀ a, lookupCell a xs = lookupCell a ys) → xs = ys
  | _, [], [], _, _, _ => rfl
  | _, [], (b, w) :: ys, _, _, h => by have := h b; simp [lookupCell] at this
  | _, (b, w) :: xs, [], _, _, h => by have := h b; simp [lookupCell] at this
  | low, (b, w) :: xs, (c, u) :: ys, hx, hy, h => by
    have hx' : risingFrom (some b) xs = true := by cases low <;> simp_all [risingFrom]
    have hy' : risingFrom (some c) ys = true := by cases low <;> simp_all [risingFrom]
    have hbc : b = c := by
      by_contra hne
      rcases Nat.lt_or_gt_of_ne hne with hlt | hlt
      · have := h b
        simp [lookupCell, hne, lookupCell_below hy' b (by omega)] at this
      · have := h c
        simp [lookupCell, Ne.symm hne, lookupCell_below hx' c (by omega)] at this
    subst hbc
    have hwu : w = u := by have := h b; simpa [lookupCell] using this
    subst hwu
    have : xs = ys := by
      refine cells_ext (some b) xs ys hx' hy' fun a => ?_
      by_cases hab : a = b
      · subst hab; rw [lookupCell_below hx' a le_rfl, lookupCell_below hy' a le_rfl]
      · have := h a; simpa [lookupCell, hab] using this
    rw [this]

/-- Equal memories are equal data: two canonical memories that list the same bytes are one. -/
theorem ByteMem.ext_of_wf {m m' : ByteMem} (h : m.wf = true) (h' : m'.wf = true)
    (hd : m.draw = m'.draw) (hr : ∀ a, lookupCell a m.cells = lookupCell a m'.cells) : m = m' := by
  cases m; cases m'
  simp only [ByteMem.mk.injEq]
  exact ⟨cells_ext none _ _ h h' hr, hd⟩

theorem ByteMem.writeAll_wf {m : ByteMem} (h : m.wf = true) (bytes : List Byte) :
    ∀ a, (m.writeAll a bytes).wf = true := by
  induction bytes generalizing m with
  | nil => intro a; simpa [ByteMem.writeAll] using h
  | cons v rest ih => intro a; exact ih (ByteMem.write_wf h a v) (a + 1)

theorem ByteMem.read_writeAll_before (bytes : List Byte) (m : ByteMem) {a b : Nat} (h : b < a) :
    (m.writeAll a bytes).read b = m.read b := by
  induction bytes generalizing m a with
  | nil => rfl
  | cons v rest ih =>
    show ((m.write a v).writeAll (a + 1) rest).read b = _
    rw [ih (m.write a v) (by omega), m.read_write_other (by omega)]

end Sys2Proof.Machine
end

