-- ==== Sys2Proof/Laws/State.lean ====
section
/-! SUPPORT. One lemma per field per update of the state, so that no proof unfolds an update. -/

namespace Sys2Proof.Machine

@[simp] theorem hostReply_cfg (v : Word) (s : State) : (hostReply v s).cfg = s.cfg := rfl
@[simp] theorem hostReply_status (v : Word) (s : State) : (hostReply v s).status = s.status := rfl
@[simp] theorem hostReply_bufLen (v : Word) (s : State) : (hostReply v s).bufLen = s.bufLen := rfl
@[simp] theorem hostReply_segCount (v : Word) (s : State) : (hostReply v s).segCount = s.segCount := rfl
@[simp] theorem hostReply_malCount (v : Word) (s : State) : (hostReply v s).malCount = s.malCount := rfl
@[simp] theorem hostReply_phase (v : Word) (s : State) : (hostReply v s).phase = s.phase := rfl
@[simp] theorem hostReply_rp (v : Word) (s : State) : (hostReply v s).rp = s.rp := rfl
@[simp] theorem hostReply_len (v : Word) (s : State) : (hostReply v s).len = s.len := rfl
@[simp] theorem hostReply_cp (v : Word) (s : State) : (hostReply v s).cp = s.cp := rfl
@[simp] theorem hostReply_latch (v : Word) (s : State) : (hostReply v s).latch = s.latch := rfl
@[simp] theorem hostReply_y (v : Word) (s : State) : (hostReply v s).y = s.y := rfl
@[simp] theorem hostReply_x1 (v : Word) (s : State) : (hostReply v s).x1 = s.x1 := rfl
@[simp] theorem hostReply_x2 (v : Word) (s : State) : (hostReply v s).x2 = s.x2 := rfl
@[simp] theorem hostReply_l (v : Word) (s : State) : (hostReply v s).l = s.l := rfl
@[simp] theorem hostReply_taint (v : Word) (s : State) : (hostReply v s).taint = s.taint := rfl
@[simp] theorem hostReply_fb (v : Word) (s : State) : (hostReply v s).fb = s.fb := rfl
@[simp] theorem hostReply_ibuf (v : Word) (s : State) : (hostReply v s).ibuf = s.ibuf := rfl
@[simp] theorem hostReply_draws (v : Word) (s : State) : (hostReply v s).draws = s.draws := rfl
@[simp] theorem hostReply_script (v : Word) (s : State) : (hostReply v s).script = s.script := rfl
@[simp] theorem hostReply_hostLog (v : Word) (s : State) : (hostReply v s).hostLog = v :: s.hostLog := rfl

@[simp] theorem useDraw_cfg (s : State) : (useDraw s).cfg = s.cfg := rfl
@[simp] theorem useDraw_status (s : State) : (useDraw s).status = s.status := rfl
@[simp] theorem useDraw_bufLen (s : State) : (useDraw s).bufLen = s.bufLen := rfl
@[simp] theorem useDraw_segCount (s : State) : (useDraw s).segCount = s.segCount := rfl
@[simp] theorem useDraw_malCount (s : State) : (useDraw s).malCount = s.malCount := rfl
@[simp] theorem useDraw_phase (s : State) : (useDraw s).phase = s.phase := rfl
@[simp] theorem useDraw_rp (s : State) : (useDraw s).rp = s.rp := rfl
@[simp] theorem useDraw_len (s : State) : (useDraw s).len = s.len := rfl
@[simp] theorem useDraw_cp (s : State) : (useDraw s).cp = s.cp := rfl
@[simp] theorem useDraw_latch (s : State) : (useDraw s).latch = s.latch := rfl
@[simp] theorem useDraw_y (s : State) : (useDraw s).y = s.y := rfl
@[simp] theorem useDraw_x1 (s : State) : (useDraw s).x1 = s.x1 := rfl
@[simp] theorem useDraw_x2 (s : State) : (useDraw s).x2 = s.x2 := rfl
@[simp] theorem useDraw_l (s : State) : (useDraw s).l = s.l := rfl
@[simp] theorem useDraw_taint (s : State) : (useDraw s).taint = s.taint := rfl
@[simp] theorem useDraw_fb (s : State) : (useDraw s).fb = s.fb := rfl
@[simp] theorem useDraw_ibuf (s : State) : (useDraw s).ibuf = s.ibuf := rfl
@[simp] theorem useDraw_draws (s : State) : (useDraw s).draws = s.draws + 1 := rfl
@[simp] theorem useDraw_script (s : State) : (useDraw s).script = s.script := rfl
@[simp] theorem useDraw_hostLog (s : State) : (useDraw s).hostLog = s.hostLog := rfl

@[simp] theorem hazard_cfg (s : State) : (hazard s).cfg = s.cfg := rfl
@[simp] theorem hazard_status (s : State) : (hazard s).status = s.status := rfl
@[simp] theorem hazard_bufLen (s : State) : (hazard s).bufLen = s.bufLen := rfl
@[simp] theorem hazard_segCount (s : State) : (hazard s).segCount = s.segCount := rfl
@[simp] theorem hazard_malCount (s : State) : (hazard s).malCount = s.malCount := rfl
@[simp] theorem hazard_phase (s : State) : (hazard s).phase = s.phase := rfl
@[simp] theorem hazard_rp (s : State) : (hazard s).rp = s.rp := rfl
@[simp] theorem hazard_len (s : State) : (hazard s).len = s.len := rfl
@[simp] theorem hazard_cp (s : State) : (hazard s).cp = s.cp := rfl
@[simp] theorem hazard_latch (s : State) : (hazard s).latch = s.latch := rfl
@[simp] theorem hazard_y (s : State) : (hazard s).y = s.y := rfl
@[simp] theorem hazard_x1 (s : State) : (hazard s).x1 = s.x1 := rfl
@[simp] theorem hazard_x2 (s : State) : (hazard s).x2 = s.x2 := rfl
@[simp] theorem hazard_l (s : State) : (hazard s).l = s.l := rfl
@[simp] theorem hazard_taint (s : State) : (hazard s).taint = (s.taint || s.status.busy) := rfl
@[simp] theorem hazard_fb (s : State) : (hazard s).fb = s.fb := rfl
@[simp] theorem hazard_ibuf (s : State) : (hazard s).ibuf = s.ibuf := rfl
@[simp] theorem hazard_draws (s : State) : (hazard s).draws = s.draws := rfl
@[simp] theorem hazard_script (s : State) : (hazard s).script = s.script := rfl
@[simp] theorem hazard_hostLog (s : State) : (hazard s).hostLog = s.hostLog := rfl

@[simp] theorem writeFb_cfg (off : Nat) (v : Byte) (s : State) : (writeFb off v s).cfg = s.cfg := rfl
@[simp] theorem writeFb_status (off : Nat) (v : Byte) (s : State) : (writeFb off v s).status = s.status := rfl
@[simp] theorem writeFb_bufLen (off : Nat) (v : Byte) (s : State) : (writeFb off v s).bufLen = s.bufLen := rfl
@[simp] theorem writeFb_segCount (off : Nat) (v : Byte) (s : State) : (writeFb off v s).segCount = s.segCount := rfl
@[simp] theorem writeFb_malCount (off : Nat) (v : Byte) (s : State) : (writeFb off v s).malCount = s.malCount := rfl
@[simp] theorem writeFb_phase (off : Nat) (v : Byte) (s : State) : (writeFb off v s).phase = s.phase := rfl
@[simp] theorem writeFb_rp (off : Nat) (v : Byte) (s : State) : (writeFb off v s).rp = s.rp := rfl
@[simp] theorem writeFb_len (off : Nat) (v : Byte) (s : State) : (writeFb off v s).len = s.len := rfl
@[simp] theorem writeFb_cp (off : Nat) (v : Byte) (s : State) : (writeFb off v s).cp = s.cp := rfl
@[simp] theorem writeFb_latch (off : Nat) (v : Byte) (s : State) : (writeFb off v s).latch = s.latch := rfl
@[simp] theorem writeFb_y (off : Nat) (v : Byte) (s : State) : (writeFb off v s).y = s.y := rfl
@[simp] theorem writeFb_x1 (off : Nat) (v : Byte) (s : State) : (writeFb off v s).x1 = s.x1 := rfl
@[simp] theorem writeFb_x2 (off : Nat) (v : Byte) (s : State) : (writeFb off v s).x2 = s.x2 := rfl
@[simp] theorem writeFb_l (off : Nat) (v : Byte) (s : State) : (writeFb off v s).l = s.l := rfl
@[simp] theorem writeFb_taint (off : Nat) (v : Byte) (s : State) : (writeFb off v s).taint = (s.taint || s.status.busy) := rfl
@[simp] theorem writeFb_fb (off : Nat) (v : Byte) (s : State) : (writeFb off v s).fb = s.fb.write off v := rfl
@[simp] theorem writeFb_ibuf (off : Nat) (v : Byte) (s : State) : (writeFb off v s).ibuf = s.ibuf := rfl
@[simp] theorem writeFb_draws (off : Nat) (v : Byte) (s : State) : (writeFb off v s).draws = s.draws := rfl
@[simp] theorem writeFb_script (off : Nat) (v : Byte) (s : State) : (writeFb off v s).script = s.script := rfl
@[simp] theorem writeFb_hostLog (off : Nat) (v : Byte) (s : State) : (writeFb off v s).hostLog = s.hostLog := rfl

@[simp] theorem writeIbuf_cfg (off : Nat) (v : Byte) (s : State) : (writeIbuf off v s).cfg = s.cfg := rfl
@[simp] theorem writeIbuf_status (off : Nat) (v : Byte) (s : State) : (writeIbuf off v s).status = s.status := rfl
@[simp] theorem writeIbuf_bufLen (off : Nat) (v : Byte) (s : State) : (writeIbuf off v s).bufLen = s.bufLen := rfl
@[simp] theorem writeIbuf_segCount (off : Nat) (v : Byte) (s : State) : (writeIbuf off v s).segCount = s.segCount := rfl
@[simp] theorem writeIbuf_malCount (off : Nat) (v : Byte) (s : State) : (writeIbuf off v s).malCount = s.malCount := rfl
@[simp] theorem writeIbuf_phase (off : Nat) (v : Byte) (s : State) : (writeIbuf off v s).phase = s.phase := rfl
@[simp] theorem writeIbuf_rp (off : Nat) (v : Byte) (s : State) : (writeIbuf off v s).rp = s.rp := rfl
@[simp] theorem writeIbuf_len (off : Nat) (v : Byte) (s : State) : (writeIbuf off v s).len = s.len := rfl
@[simp] theorem writeIbuf_cp (off : Nat) (v : Byte) (s : State) : (writeIbuf off v s).cp = s.cp := rfl
@[simp] theorem writeIbuf_latch (off : Nat) (v : Byte) (s : State) : (writeIbuf off v s).latch = s.latch := rfl
@[simp] theorem writeIbuf_y (off : Nat) (v : Byte) (s : State) : (writeIbuf off v s).y = s.y := rfl
@[simp] theorem writeIbuf_x1 (off : Nat) (v : Byte) (s : State) : (writeIbuf off v s).x1 = s.x1 := rfl
@[simp] theorem writeIbuf_x2 (off : Nat) (v : Byte) (s : State) : (writeIbuf off v s).x2 = s.x2 := rfl
@[simp] theorem writeIbuf_l (off : Nat) (v : Byte) (s : State) : (writeIbuf off v s).l = s.l := rfl
@[simp] theorem writeIbuf_taint (off : Nat) (v : Byte) (s : State) : (writeIbuf off v s).taint = (s.taint || s.status.busy) := rfl
@[simp] theorem writeIbuf_fb (off : Nat) (v : Byte) (s : State) : (writeIbuf off v s).fb = s.fb := rfl
@[simp] theorem writeIbuf_ibuf (off : Nat) (v : Byte) (s : State) : (writeIbuf off v s).ibuf = s.ibuf.write off v := rfl
@[simp] theorem writeIbuf_draws (off : Nat) (v : Byte) (s : State) : (writeIbuf off v s).draws = s.draws := rfl
@[simp] theorem writeIbuf_script (off : Nat) (v : Byte) (s : State) : (writeIbuf off v s).script = s.script := rfl
@[simp] theorem writeIbuf_hostLog (off : Nat) (v : Byte) (s : State) : (writeIbuf off v s).hostLog = s.hostLog := rfl

@[simp] theorem setCoords_cfg (y x1 x2 : Int) (s : State) : (setCoords y x1 x2 s).cfg = s.cfg := rfl
@[simp] theorem setCoords_status (y x1 x2 : Int) (s : State) : (setCoords y x1 x2 s).status = s.status := rfl
@[simp] theorem setCoords_bufLen (y x1 x2 : Int) (s : State) : (setCoords y x1 x2 s).bufLen = s.bufLen := rfl
@[simp] theorem setCoords_segCount (y x1 x2 : Int) (s : State) : (setCoords y x1 x2 s).segCount = s.segCount := rfl
@[simp] theorem setCoords_malCount (y x1 x2 : Int) (s : State) : (setCoords y x1 x2 s).malCount = s.malCount := rfl
@[simp] theorem setCoords_phase (y x1 x2 : Int) (s : State) : (setCoords y x1 x2 s).phase = s.phase := rfl
@[simp] theorem setCoords_rp (y x1 x2 : Int) (s : State) : (setCoords y x1 x2 s).rp = s.rp := rfl
@[simp] theorem setCoords_len (y x1 x2 : Int) (s : State) : (setCoords y x1 x2 s).len = s.len := rfl
@[simp] theorem setCoords_cp (y x1 x2 : Int) (s : State) : (setCoords y x1 x2 s).cp = s.cp := rfl
@[simp] theorem setCoords_latch (y x1 x2 : Int) (s : State) : (setCoords y x1 x2 s).latch = s.latch := rfl
@[simp] theorem setCoords_y (y x1 x2 : Int) (s : State) : (setCoords y x1 x2 s).y = y := rfl
@[simp] theorem setCoords_x1 (y x1 x2 : Int) (s : State) : (setCoords y x1 x2 s).x1 = x1 := rfl
@[simp] theorem setCoords_x2 (y x1 x2 : Int) (s : State) : (setCoords y x1 x2 s).x2 = x2 := rfl
@[simp] theorem setCoords_l (y x1 x2 : Int) (s : State) : (setCoords y x1 x2 s).l = s.l := rfl
@[simp] theorem setCoords_taint (y x1 x2 : Int) (s : State) : (setCoords y x1 x2 s).taint = s.taint := rfl
@[simp] theorem setCoords_fb (y x1 x2 : Int) (s : State) : (setCoords y x1 x2 s).fb = s.fb := rfl
@[simp] theorem setCoords_ibuf (y x1 x2 : Int) (s : State) : (setCoords y x1 x2 s).ibuf = s.ibuf := rfl
@[simp] theorem setCoords_draws (y x1 x2 : Int) (s : State) : (setCoords y x1 x2 s).draws = s.draws := rfl
@[simp] theorem setCoords_script (y x1 x2 : Int) (s : State) : (setCoords y x1 x2 s).script = s.script := rfl
@[simp] theorem setCoords_hostLog (y x1 x2 : Int) (s : State) : (setCoords y x1 x2 s).hostLog = s.hostLog := rfl

@[simp] theorem acceptSpan_cfg (s : State) : (acceptSpan s).cfg = s.cfg := rfl
@[simp] theorem acceptSpan_status (s : State) : (acceptSpan s).status = s.status := rfl
@[simp] theorem acceptSpan_bufLen (s : State) : (acceptSpan s).bufLen = s.bufLen := rfl
@[simp] theorem acceptSpan_segCount (s : State) : (acceptSpan s).segCount = s.segCount + 1#32 := rfl
@[simp] theorem acceptSpan_malCount (s : State) : (acceptSpan s).malCount = s.malCount := rfl
@[simp] theorem acceptSpan_phase (s : State) : (acceptSpan s).phase = .paint := rfl
@[simp] theorem acceptSpan_rp (s : State) : (acceptSpan s).rp = s.rp := rfl
@[simp] theorem acceptSpan_len (s : State) : (acceptSpan s).len = s.len := rfl
@[simp] theorem acceptSpan_cp (s : State) : (acceptSpan s).cp = s.cp := rfl
@[simp] theorem acceptSpan_latch (s : State) : (acceptSpan s).latch = s.latch := rfl
@[simp] theorem acceptSpan_y (s : State) : (acceptSpan s).y = s.y := rfl
@[simp] theorem acceptSpan_x1 (s : State) : (acceptSpan s).x1 = s.x1 := rfl
@[simp] theorem acceptSpan_x2 (s : State) : (acceptSpan s).x2 = s.x2 := rfl
@[simp] theorem acceptSpan_l (s : State) : (acceptSpan s).l = s.x1 := rfl
@[simp] theorem acceptSpan_taint (s : State) : (acceptSpan s).taint = s.taint := rfl
@[simp] theorem acceptSpan_fb (s : State) : (acceptSpan s).fb = s.fb := rfl
@[simp] theorem acceptSpan_ibuf (s : State) : (acceptSpan s).ibuf = s.ibuf := rfl
@[simp] theorem acceptSpan_draws (s : State) : (acceptSpan s).draws = s.draws := rfl
@[simp] theorem acceptSpan_script (s : State) : (acceptSpan s).script = s.script := rfl
@[simp] theorem acceptSpan_hostLog (s : State) : (acceptSpan s).hostLog = s.hostLog := rfl

@[simp] theorem rejectSpan_cfg (s : State) : (rejectSpan s).cfg = s.cfg := rfl
@[simp] theorem rejectSpan_status (s : State) : (rejectSpan s).status = s.status := rfl
@[simp] theorem rejectSpan_bufLen (s : State) : (rejectSpan s).bufLen = s.bufLen := rfl
@[simp] theorem rejectSpan_segCount (s : State) : (rejectSpan s).segCount = s.segCount := rfl
@[simp] theorem rejectSpan_malCount (s : State) : (rejectSpan s).malCount = s.malCount + 1#32 := rfl
@[simp] theorem rejectSpan_phase (s : State) : (rejectSpan s).phase = s.phase := rfl
@[simp] theorem rejectSpan_rp (s : State) : (rejectSpan s).rp = s.rp := rfl
@[simp] theorem rejectSpan_len (s : State) : (rejectSpan s).len = s.len := rfl
@[simp] theorem rejectSpan_cp (s : State) : (rejectSpan s).cp = s.cp := rfl
@[simp] theorem rejectSpan_latch (s : State) : (rejectSpan s).latch = s.latch := rfl
@[simp] theorem rejectSpan_y (s : State) : (rejectSpan s).y = s.y := rfl
@[simp] theorem rejectSpan_x1 (s : State) : (rejectSpan s).x1 = s.x1 := rfl
@[simp] theorem rejectSpan_x2 (s : State) : (rejectSpan s).x2 = s.x2 := rfl
@[simp] theorem rejectSpan_l (s : State) : (rejectSpan s).l = s.l := rfl
@[simp] theorem rejectSpan_taint (s : State) : (rejectSpan s).taint = s.taint := rfl
@[simp] theorem rejectSpan_fb (s : State) : (rejectSpan s).fb = s.fb := rfl
@[simp] theorem rejectSpan_ibuf (s : State) : (rejectSpan s).ibuf = s.ibuf := rfl
@[simp] theorem rejectSpan_draws (s : State) : (rejectSpan s).draws = s.draws := rfl
@[simp] theorem rejectSpan_script (s : State) : (rejectSpan s).script = s.script := rfl
@[simp] theorem rejectSpan_hostLog (s : State) : (rejectSpan s).hostLog = s.hostLog := rfl

@[simp] theorem raise_unknownMessage_cfg (s : State) : (raise .unknownMessage s).cfg = s.cfg := rfl
@[simp] theorem raise_unknownMessage_status (s : State) : (raise .unknownMessage s).status = { s.status with unknownMsg := true } := rfl
@[simp] theorem raise_unknownMessage_bufLen (s : State) : (raise .unknownMessage s).bufLen = s.bufLen := rfl
@[simp] theorem raise_unknownMessage_segCount (s : State) : (raise .unknownMessage s).segCount = s.segCount := rfl
@[simp] theorem raise_unknownMessage_malCount (s : State) : (raise .unknownMessage s).malCount = s.malCount := rfl
@[simp] theorem raise_unknownMessage_phase (s : State) : (raise .unknownMessage s).phase = s.phase := rfl
@[simp] theorem raise_unknownMessage_rp (s : State) : (raise .unknownMessage s).rp = s.rp := rfl
@[simp] theorem raise_unknownMessage_len (s : State) : (raise .unknownMessage s).len = s.len := rfl
@[simp] theorem raise_unknownMessage_cp (s : State) : (raise .unknownMessage s).cp = s.cp := rfl
@[simp] theorem raise_unknownMessage_latch (s : State) : (raise .unknownMessage s).latch = s.latch := rfl
@[simp] theorem raise_unknownMessage_y (s : State) : (raise .unknownMessage s).y = s.y := rfl
@[simp] theorem raise_unknownMessage_x1 (s : State) : (raise .unknownMessage s).x1 = s.x1 := rfl
@[simp] theorem raise_unknownMessage_x2 (s : State) : (raise .unknownMessage s).x2 = s.x2 := rfl
@[simp] theorem raise_unknownMessage_l (s : State) : (raise .unknownMessage s).l = s.l := rfl
@[simp] theorem raise_unknownMessage_taint (s : State) : (raise .unknownMessage s).taint = s.taint := rfl
@[simp] theorem raise_unknownMessage_fb (s : State) : (raise .unknownMessage s).fb = s.fb := rfl
@[simp] theorem raise_unknownMessage_ibuf (s : State) : (raise .unknownMessage s).ibuf = s.ibuf := rfl
@[simp] theorem raise_unknownMessage_draws (s : State) : (raise .unknownMessage s).draws = s.draws := rfl
@[simp] theorem raise_unknownMessage_script (s : State) : (raise .unknownMessage s).script = s.script := rfl
@[simp] theorem raise_unknownMessage_hostLog (s : State) : (raise .unknownMessage s).hostLog = s.hostLog := rfl

@[simp] theorem raise_outOfRange_cfg (s : State) : (raise .outOfRange s).cfg = s.cfg := rfl
@[simp] theorem raise_outOfRange_status (s : State) : (raise .outOfRange s).status = s.status := rfl
@[simp] theorem raise_outOfRange_bufLen (s : State) : (raise .outOfRange s).bufLen = s.bufLen := rfl
@[simp] theorem raise_outOfRange_segCount (s : State) : (raise .outOfRange s).segCount = s.segCount := rfl
@[simp] theorem raise_outOfRange_malCount (s : State) : (raise .outOfRange s).malCount = s.malCount + 1#32 := rfl
@[simp] theorem raise_outOfRange_phase (s : State) : (raise .outOfRange s).phase = s.phase := rfl
@[simp] theorem raise_outOfRange_rp (s : State) : (raise .outOfRange s).rp = s.rp := rfl
@[simp] theorem raise_outOfRange_len (s : State) : (raise .outOfRange s).len = s.len := rfl
@[simp] theorem raise_outOfRange_cp (s : State) : (raise .outOfRange s).cp = s.cp := rfl
@[simp] theorem raise_outOfRange_latch (s : State) : (raise .outOfRange s).latch = s.latch := rfl
@[simp] theorem raise_outOfRange_y (s : State) : (raise .outOfRange s).y = s.y := rfl
@[simp] theorem raise_outOfRange_x1 (s : State) : (raise .outOfRange s).x1 = s.x1 := rfl
@[simp] theorem raise_outOfRange_x2 (s : State) : (raise .outOfRange s).x2 = s.x2 := rfl
@[simp] theorem raise_outOfRange_l (s : State) : (raise .outOfRange s).l = s.l := rfl
@[simp] theorem raise_outOfRange_taint (s : State) : (raise .outOfRange s).taint = s.taint := rfl
@[simp] theorem raise_outOfRange_fb (s : State) : (raise .outOfRange s).fb = s.fb := rfl
@[simp] theorem raise_outOfRange_ibuf (s : State) : (raise .outOfRange s).ibuf = s.ibuf := rfl
@[simp] theorem raise_outOfRange_draws (s : State) : (raise .outOfRange s).draws = s.draws := rfl
@[simp] theorem raise_outOfRange_script (s : State) : (raise .outOfRange s).script = s.script := rfl
@[simp] theorem raise_outOfRange_hostLog (s : State) : (raise .outOfRange s).hostLog = s.hostLog := rfl

@[simp] theorem latchWindow_cfg (r : Record) (s : State) : (latchWindow r s).cfg = s.cfg := rfl
@[simp] theorem latchWindow_status (r : Record) (s : State) : (latchWindow r s).status = s.status := rfl
@[simp] theorem latchWindow_bufLen (r : Record) (s : State) : (latchWindow r s).bufLen = s.bufLen := rfl
@[simp] theorem latchWindow_segCount (r : Record) (s : State) : (latchWindow r s).segCount = s.segCount := rfl
@[simp] theorem latchWindow_malCount (r : Record) (s : State) : (latchWindow r s).malCount = s.malCount := rfl
@[simp] theorem latchWindow_phase (r : Record) (s : State) : (latchWindow r s).phase = s.phase := rfl
@[simp] theorem latchWindow_rp (r : Record) (s : State) : (latchWindow r s).rp = s.rp + BitVec.ofNat 32 REC_LEN := rfl
@[simp] theorem latchWindow_len (r : Record) (s : State) : (latchWindow r s).len = s.len := rfl
@[simp] theorem latchWindow_cp (r : Record) (s : State) : (latchWindow r s).cp = s.cp := rfl
@[simp] theorem latchWindow_latch (r : Record) (s : State) : (latchWindow r s).latch = r := rfl
@[simp] theorem latchWindow_y (r : Record) (s : State) : (latchWindow r s).y = s.y := rfl
@[simp] theorem latchWindow_x1 (r : Record) (s : State) : (latchWindow r s).x1 = s.x1 := rfl
@[simp] theorem latchWindow_x2 (r : Record) (s : State) : (latchWindow r s).x2 = s.x2 := rfl
@[simp] theorem latchWindow_l (r : Record) (s : State) : (latchWindow r s).l = s.l := rfl
@[simp] theorem latchWindow_taint (r : Record) (s : State) : (latchWindow r s).taint = s.taint := rfl
@[simp] theorem latchWindow_fb (r : Record) (s : State) : (latchWindow r s).fb = s.fb := rfl
@[simp] theorem latchWindow_ibuf (r : Record) (s : State) : (latchWindow r s).ibuf = s.ibuf := rfl
@[simp] theorem latchWindow_draws (r : Record) (s : State) : (latchWindow r s).draws = s.draws := rfl
@[simp] theorem latchWindow_script (r : Record) (s : State) : (latchWindow r s).script = s.script := rfl
@[simp] theorem latchWindow_hostLog (r : Record) (s : State) : (latchWindow r s).hostLog = s.hostLog := rfl

@[simp] theorem beginDecode_cfg (s : State) : (beginDecode s).cfg = s.cfg := rfl
@[simp] theorem beginDecode_status (s : State) : (beginDecode s).status = Status.started := rfl
@[simp] theorem beginDecode_bufLen (s : State) : (beginDecode s).bufLen = s.bufLen := rfl
@[simp] theorem beginDecode_segCount (s : State) : (beginDecode s).segCount = 0#32 := rfl
@[simp] theorem beginDecode_malCount (s : State) : (beginDecode s).malCount = 0#32 := rfl
@[simp] theorem beginDecode_phase (s : State) : (beginDecode s).phase = s.phase := rfl
@[simp] theorem beginDecode_rp (s : State) : (beginDecode s).rp = s.rp := rfl
@[simp] theorem beginDecode_len (s : State) : (beginDecode s).len = s.bufLen := rfl
@[simp] theorem beginDecode_cp (s : State) : (beginDecode s).cp = s.cp := rfl
@[simp] theorem beginDecode_latch (s : State) : (beginDecode s).latch = s.latch := rfl
@[simp] theorem beginDecode_y (s : State) : (beginDecode s).y = s.y := rfl
@[simp] theorem beginDecode_x1 (s : State) : (beginDecode s).x1 = s.x1 := rfl
@[simp] theorem beginDecode_x2 (s : State) : (beginDecode s).x2 = s.x2 := rfl
@[simp] theorem beginDecode_l (s : State) : (beginDecode s).l = s.l := rfl
@[simp] theorem beginDecode_taint (s : State) : (beginDecode s).taint = false := rfl
@[simp] theorem beginDecode_fb (s : State) : (beginDecode s).fb = s.fb := rfl
@[simp] theorem beginDecode_ibuf (s : State) : (beginDecode s).ibuf = s.ibuf := rfl
@[simp] theorem beginDecode_draws (s : State) : (beginDecode s).draws = s.draws := rfl
@[simp] theorem beginDecode_script (s : State) : (beginDecode s).script = s.script := rfl
@[simp] theorem beginDecode_hostLog (s : State) : (beginDecode s).hostLog = s.hostLog := rfl

@[simp] theorem scanBegin_cfg (s : State) : (scanBegin s).cfg = s.cfg := rfl
@[simp] theorem scanBegin_status (s : State) : (scanBegin s).status = s.status := rfl
@[simp] theorem scanBegin_bufLen (s : State) : (scanBegin s).bufLen = s.bufLen := rfl
@[simp] theorem scanBegin_segCount (s : State) : (scanBegin s).segCount = s.segCount := rfl
@[simp] theorem scanBegin_malCount (s : State) : (scanBegin s).malCount = s.malCount := rfl
@[simp] theorem scanBegin_phase (s : State) : (scanBegin s).phase = .scan := rfl
@[simp] theorem scanBegin_rp (s : State) : (scanBegin s).rp = BitVec.ofNat 32 HDR_LEN := rfl
@[simp] theorem scanBegin_len (s : State) : (scanBegin s).len = s.len := rfl
@[simp] theorem scanBegin_cp (s : State) : (scanBegin s).cp = s.cp := rfl
@[simp] theorem scanBegin_latch (s : State) : (scanBegin s).latch = s.latch := rfl
@[simp] theorem scanBegin_y (s : State) : (scanBegin s).y = s.y := rfl
@[simp] theorem scanBegin_x1 (s : State) : (scanBegin s).x1 = s.x1 := rfl
@[simp] theorem scanBegin_x2 (s : State) : (scanBegin s).x2 = s.x2 := rfl
@[simp] theorem scanBegin_l (s : State) : (scanBegin s).l = s.l := rfl
@[simp] theorem scanBegin_taint (s : State) : (scanBegin s).taint = s.taint := rfl
@[simp] theorem scanBegin_fb (s : State) : (scanBegin s).fb = s.fb := rfl
@[simp] theorem scanBegin_ibuf (s : State) : (scanBegin s).ibuf = s.ibuf := rfl
@[simp] theorem scanBegin_draws (s : State) : (scanBegin s).draws = s.draws := rfl
@[simp] theorem scanBegin_script (s : State) : (scanBegin s).script = s.script := rfl
@[simp] theorem scanBegin_hostLog (s : State) : (scanBegin s).hostLog = s.hostLog := rfl

@[simp] theorem finishExact_cfg (s : State) : (finishExact s).cfg = s.cfg := rfl
@[simp] theorem finishExact_status (s : State) : (finishExact s).status = s.status.finished := rfl
@[simp] theorem finishExact_bufLen (s : State) : (finishExact s).bufLen = s.bufLen := rfl
@[simp] theorem finishExact_segCount (s : State) : (finishExact s).segCount = s.segCount := rfl
@[simp] theorem finishExact_malCount (s : State) : (finishExact s).malCount = s.malCount := rfl
@[simp] theorem finishExact_phase (s : State) : (finishExact s).phase = .idle := rfl
@[simp] theorem finishExact_rp (s : State) : (finishExact s).rp = s.rp := rfl
@[simp] theorem finishExact_len (s : State) : (finishExact s).len = s.len := rfl
@[simp] theorem finishExact_cp (s : State) : (finishExact s).cp = s.cp := rfl
@[simp] theorem finishExact_latch (s : State) : (finishExact s).latch = s.latch := rfl
@[simp] theorem finishExact_y (s : State) : (finishExact s).y = s.y := rfl
@[simp] theorem finishExact_x1 (s : State) : (finishExact s).x1 = s.x1 := rfl
@[simp] theorem finishExact_x2 (s : State) : (finishExact s).x2 = s.x2 := rfl
@[simp] theorem finishExact_l (s : State) : (finishExact s).l = s.l := rfl
@[simp] theorem finishExact_taint (s : State) : (finishExact s).taint = s.taint := rfl
@[simp] theorem finishExact_fb (s : State) : (finishExact s).fb = s.fb := rfl
@[simp] theorem finishExact_ibuf (s : State) : (finishExact s).ibuf = s.ibuf := rfl
@[simp] theorem finishExact_draws (s : State) : (finishExact s).draws = s.draws := rfl
@[simp] theorem finishExact_script (s : State) : (finishExact s).script = s.script := rfl
@[simp] theorem finishExact_hostLog (s : State) : (finishExact s).hostLog = s.hostLog := rfl

@[simp] theorem taintResults_cfg (s : State) : (taintResults s).cfg = s.cfg := rfl
@[simp] theorem taintResults_status (s : State) : (taintResults s).status = { s.status with unknownMsg := Config.freeBit (s.draws + 3), termSeen := Config.freeBit (s.draws + 4) } := rfl
@[simp] theorem taintResults_bufLen (s : State) : (taintResults s).bufLen = s.bufLen := rfl
@[simp] theorem taintResults_segCount (s : State) : (taintResults s).segCount = Config.freeWord (s.draws + 1) := rfl
@[simp] theorem taintResults_malCount (s : State) : (taintResults s).malCount = Config.freeWord (s.draws + 2) := rfl
@[simp] theorem taintResults_phase (s : State) : (taintResults s).phase = s.phase := rfl
@[simp] theorem taintResults_rp (s : State) : (taintResults s).rp = s.rp := rfl
@[simp] theorem taintResults_len (s : State) : (taintResults s).len = s.len := rfl
@[simp] theorem taintResults_cp (s : State) : (taintResults s).cp = s.cp := rfl
@[simp] theorem taintResults_latch (s : State) : (taintResults s).latch = s.latch := rfl
@[simp] theorem taintResults_y (s : State) : (taintResults s).y = s.y := rfl
@[simp] theorem taintResults_x1 (s : State) : (taintResults s).x1 = s.x1 := rfl
@[simp] theorem taintResults_x2 (s : State) : (taintResults s).x2 = s.x2 := rfl
@[simp] theorem taintResults_l (s : State) : (taintResults s).l = s.l := rfl
@[simp] theorem taintResults_taint (s : State) : (taintResults s).taint = s.taint := rfl
@[simp] theorem taintResults_fb (s : State) : (taintResults s).fb = ⟨[], s.draws⟩ := rfl
@[simp] theorem taintResults_ibuf (s : State) : (taintResults s).ibuf = s.ibuf := rfl
@[simp] theorem taintResults_draws (s : State) : (taintResults s).draws = s.draws + 5 := rfl
@[simp] theorem taintResults_script (s : State) : (taintResults s).script = s.script := rfl
@[simp] theorem taintResults_hostLog (s : State) : (taintResults s).hostLog = s.hostLog := rfl

@[simp] theorem skipAction_eq (s : State) : skipAction s = s := rfl

end Sys2Proof.Machine
end

