-- ==== Sys2Proof/Laws/Cases.lean ====
section
/-! SUPPORT. What each operation, meaning and step can answer, said once: proofs cite these and unfold nothing. -/

namespace Sys2Proof.Machine

theorem ibufMemRead_ok {s : State} {a : Nat} {b : Byte} (h : ibufMemRead s a = .ok b) :
    a < s.cfg.ibufSize ∧ b = s.ibuf.read a := by
  unfold ibufMemRead at h
  split at h
  · rename_i hlt; exact ⟨hlt, by simpa using h.symm⟩
  · cases h

theorem ibufMemRead_of_lt {s : State} {a : Nat} (h : a < s.cfg.ibufSize) :
    ibufMemRead s a = .ok (s.ibuf.read a) := if_pos h

theorem fbMemWrite_of_range {s : State} {a : Int} (v : Byte) (h0 : 0 ≤ a)
    (h1 : a < (s.cfg.fbSize : Int)) :
    fbMemWrite s a v = .ok { s with fb := s.fb.write a.toNat v } := if_pos ⟨h0, h1⟩

theorem fbMemWrite_ok {s s' : State} {a : Int} {v : Byte} (h : fbMemWrite s a v = .ok s') :
    (0 ≤ a ∧ a < (s.cfg.fbSize : Int)) ∧ s' = { s with fb := s.fb.write a.toNat v } := by
  unfold fbMemWrite at h
  split at h
  · rename_i hr; exact ⟨hr, by simpa using h.symm⟩
  · cases h

theorem orFault_next {α : Type} {r : Except Fault α} {k : α → Result} {t : State}
    (h : orFault r k = .next t) : ∃ v, r = .ok v ∧ k v = .next t := by
  cases r with
  | ok v => exact ⟨v, rfl, h⟩
  | error f => cases h

@[simp] theorem orFault_ok {α : Type} (v : α) (k : α → Result) : orFault (.ok v) k = k v := rfl

theorem finish_of_untainted {s : State} (h : s.taint = false) : finish s = finishExact s := by
  simp [finish, h]

theorem finish_of_tainted {s : State} (h : s.taint = true) :
    finish s = taintResults (finishExact s) := by simp [finish, h]

@[simp] theorem finish_cfg (s : State) : (finish s).cfg = s.cfg := by unfold finish; split <;> rfl
@[simp] theorem finish_bufLen (s : State) : (finish s).bufLen = s.bufLen := by
  unfold finish; split <;> rfl
@[simp] theorem finish_phase (s : State) : (finish s).phase = .idle := by unfold finish; split <;> rfl
@[simp] theorem finish_rp (s : State) : (finish s).rp = s.rp := by unfold finish; split <;> rfl
@[simp] theorem finish_len (s : State) : (finish s).len = s.len := by unfold finish; split <;> rfl
@[simp] theorem finish_cp (s : State) : (finish s).cp = s.cp := by unfold finish; split <;> rfl
@[simp] theorem finish_latch (s : State) : (finish s).latch = s.latch := by unfold finish; split <;> rfl
@[simp] theorem finish_y (s : State) : (finish s).y = s.y := by unfold finish; split <;> rfl
@[simp] theorem finish_x1 (s : State) : (finish s).x1 = s.x1 := by unfold finish; split <;> rfl
@[simp] theorem finish_x2 (s : State) : (finish s).x2 = s.x2 := by unfold finish; split <;> rfl
@[simp] theorem finish_l (s : State) : (finish s).l = s.l := by unfold finish; split <;> rfl
@[simp] theorem finish_taint (s : State) : (finish s).taint = s.taint := by unfold finish; split <;> rfl
@[simp] theorem finish_ibuf (s : State) : (finish s).ibuf = s.ibuf := by unfold finish; split <;> rfl
@[simp] theorem finish_script (s : State) : (finish s).script = s.script := by
  unfold finish; split <;> rfl
@[simp] theorem finish_hostLog (s : State) : (finish s).hostLog = s.hostLog := by
  unfold finish; split <;> rfl
@[simp] theorem finish_busy (s : State) : (finish s).status.busy = false := by
  unfold finish; split <;> rfl
@[simp] theorem finish_done (s : State) : (finish s).status.done = true := by
  unfold finish; split <;> rfl

/-- FB after finish is the same memory, or a draw used for it. -/
theorem finish_fb (s : State) :
    ((finish s).fb = s.fb ∧ (finish s).draws = s.draws) ∨
      ((finish s).fb = ⟨[], s.draws⟩ ∧ (finish s).draws = s.draws + 5) := by
  unfold finish; split
  · exact .inr ⟨rfl, rfl⟩
  · exact .inl ⟨rfl, rfl⟩

/-- What a record's action can do: finish with TERM_SEEN, nothing, or R150's action on its operands. -/
theorem exec_cases {i : Instr} {s t : State} (h : exec i s = .next t) :
    (i.cls = .term ∧ t = finish { s with status := { s.status with termSeen := true } }) ∨
    (i.cls = .skip ∧ t = s) ∨
    (∃ ex1 ex2 ey x2b x1b yb, i = .span ex1 ex2 ey x2b x1b yb ∧
      t = checkSpan (setCoords (adjustedY s.cfg yb ey) (adjustedX s.cfg x1b ex1)
        (adjustedX s.cfg x2b ex2) s)) := by
  cases i with
  | term => exact .inl ⟨rfl, by simpa [exec, execTerm] using h.symm⟩
  | skipB0 => exact .inr (.inl ⟨rfl, by simpa [exec, execSkipB0] using h.symm⟩)
  | skipB1 => exact .inr (.inl ⟨rfl, by simpa [exec, execSkipB1] using h.symm⟩)
  | skipB2 => exact .inr (.inl ⟨rfl, by simpa [exec, execSkipB2] using h.symm⟩)
  | skipB3 => exact .inr (.inl ⟨rfl, by simpa [exec, execSkipB3] using h.symm⟩)
  | skipB4 => exact .inr (.inl ⟨rfl, by simpa [exec, execSkipB4] using h.symm⟩)
  | span ex1 ex2 ey x2b x1b yb =>
    exact .inr (.inr ⟨ex1, ex2, ey, x2b, x1b, yb, rfl, by simpa [exec, execSpan] using h.symm⟩)

theorem checkSpan_cases (s : State) :
    (spanValid s.cfg s.y s.x1 s.x2 = true ∧ checkSpan s = acceptSpan s) ∨
    (spanValid s.cfg s.y s.x1 s.x2 = false ∧ checkSpan s = rejectSpan s) := by
  unfold checkSpan
  cases h : spanValid s.cfg s.y s.x1 s.x2
  · exact .inr ⟨rfl, by simp⟩
  · exact .inl ⟨rfl, by simp⟩

theorem readWindow_ok {s : State} {r : Record} (h : readWindow s = .ok r) :
    s.rp.toNat + 3 < s.cfg.ibufSize ∧
      r = ⟨s.ibuf.read s.rp.toNat, s.ibuf.read (s.rp.toNat + 1), s.ibuf.read (s.rp.toNat + 2),
        s.ibuf.read (s.rp.toNat + 3)⟩ := by
  unfold readWindow at h
  split at h
  · rename_i b0 b1 b2 b3 h0 h1 h2 h3
    have h0 := ibufMemRead_ok h0
    have h1 := ibufMemRead_ok h1
    have h2 := ibufMemRead_ok h2
    have h3 := ibufMemRead_ok h3
    refine ⟨h3.1, ?_⟩
    rw [← h0.2, ← h1.2, ← h2.2, ← h3.2]
    simpa using h.symm
  · cases h

theorem readWindow_of_lt {s : State} (h : s.rp.toNat + 3 < s.cfg.ibufSize) :
    readWindow s = .ok ⟨s.ibuf.read s.rp.toNat, s.ibuf.read (s.rp.toNat + 1),
      s.ibuf.read (s.rp.toNat + 2), s.ibuf.read (s.rp.toNat + 3)⟩ := by
  unfold readWindow
  rw [ibufMemRead_of_lt (by omega), ibufMemRead_of_lt (by omega), ibufMemRead_of_lt (by omega),
    ibufMemRead_of_lt h]

/-- Every record's action goes on: no meaning stops. -/
theorem exec_next (i : Instr) (s : State) : ∃ t, exec i s = .next t := by
  cases i <;> exact ⟨_, rfl⟩

theorem bufferEnd_true {s : State} (h : s.len.toNat < s.rp.toNat + 4) : bufferEnd s = true :=
  decide_eq_true h

theorem bufferEnd_false {s : State} (h : s.rp.toNat + 4 ≤ s.len.toNat) : bufferEnd s = false :=
  decide_eq_false (Nat.not_lt.2 h)

theorem bufferEnd_eq_true {s : State} : bufferEnd s = true ↔ s.len.toNat < s.rp.toNat + 4 :=
  decide_eq_true_iff

theorem bufferEnd_eq_false {s : State} : bufferEnd s = false ↔ s.rp.toNat + 4 ≤ s.len.toNat := by
  rw [← Bool.not_eq_true, bufferEnd_eq_true]; omega

/-- What a step of the SRD can do (R105 to R107, R158, R195). -/
theorem srdStep_cases {s t : State} (h : srdStep s = .next t) :
    (s.phase = .idle ∧ t = s) ∨
    (s.phase = .clear ∧ s.cp < s.cfg.fbSize ∧
      t = { s with fb := s.fb.write s.cp PIX_OFF, cp := s.cp + 1 }) ∨
    (s.phase = .clear ∧ s.cfg.fbSize ≤ s.cp ∧ t = scanBegin s) ∨
    (s.phase = .scan ∧ bufferEnd s = true ∧ t = finish s) ∨
    (s.phase = .scan ∧ bufferEnd s = false ∧ ∃ r, readWindow s = .ok r ∧
      exec (decodeRecord r) (latchWindow r s) = .next t) ∨
    (s.phase = .paint ∧ s.l < s.x2 ∧ 0 ≤ pixelOffset s.cfg s.y s.l ∧
      pixelOffset s.cfg s.y s.l < (s.cfg.fbSize : Int) ∧
      t = { s with fb := s.fb.write (pixelOffset s.cfg s.y s.l).toNat PIX_ON, l := s.l + 1 }) ∨
    (s.phase = .paint ∧ s.x2 ≤ s.l ∧ t = { s with phase := .scan }) := by
  unfold srdStep at h
  split at h
  · rename_i hp; exact .inl ⟨hp, by simpa using h.symm⟩
  · rename_i hp
    unfold clearStep at h
    split at h
    · rename_i hc
      obtain ⟨s', h1, h2⟩ := orFault_next h
      obtain ⟨-, rfl⟩ := fbMemWrite_ok h1
      exact .inr (.inl ⟨hp, hc, by simpa using h2.symm⟩)
    · exact .inr (.inr (.inl ⟨hp, by omega, by simpa using h.symm⟩))
  · rename_i hp
    unfold scanStep at h
    split at h
    · rename_i hb; exact .inr (.inr (.inr (.inl ⟨hp, hb, by simpa using h.symm⟩)))
    · rename_i hb
      obtain ⟨r, h1, h2⟩ := orFault_next h
      exact .inr (.inr (.inr (.inr (.inl ⟨hp, by simpa using hb, r, h1, h2⟩))))
  · rename_i hp
    unfold paintStep at h
    split at h
    · rename_i hl
      obtain ⟨s', h1, h2⟩ := orFault_next h
      obtain ⟨⟨h0, h3⟩, rfl⟩ := fbMemWrite_ok h1
      exact .inr (.inr (.inr (.inr (.inr (.inl ⟨hp, hl, h0, h3, by simpa using h2.symm⟩)))))
    · exact .inr (.inr (.inr (.inr (.inr (.inr ⟨hp, by omega, by simpa using h.symm⟩)))))

/-- What the header check can do (R102). -/
theorem headerCheck_cases {s t : State} (h : headerCheck s = .next t) :
    ((s.len.toNat < 2 ∨ s.ibuf.read 1 ≠ MARKER) ∧ t = unknownMessage s) ∨
    (2 ≤ s.len.toNat ∧ s.ibuf.read 1 = MARKER ∧ t = { s with cp := 0, phase := .clear }) := by
  unfold headerCheck at h
  by_cases hl : s.len.toNat < HDR_LEN
  · rw [if_pos hl] at h; exact .inl ⟨.inl hl, by simpa using h.symm⟩
  · rw [if_neg hl] at h
    obtain ⟨b, h1, h2⟩ := orFault_next h
    obtain ⟨-, rfl⟩ := ibufMemRead_ok h1
    by_cases hb : s.ibuf.read 1 = MARKER
    · rw [if_neg (not_not.2 hb)] at h2
      exact .inr ⟨Nat.not_lt.1 hl, hb, by simpa using h2.symm⟩
    · rw [if_pos hb] at h2; exact .inl ⟨.inr hb, by simpa using h2.symm⟩

/-- A host access that goes on, of a byte space. -/
theorem bytePort_next {size off width : Nat} {k : Result} {t : State}
    (h : bytePort size off width k = .next t) : width = 8 ∧ off < size ∧ k = .next t := by
  unfold bytePort at h
  split at h
  · cases h
  · split at h
    · exact ⟨by omega, by assumption, h⟩
    · cases h

/-- A host access that goes on, of REG. -/
theorem regPort_next {off width : Nat} {k : Reg → Result} {t : State}
    (h : regPort off width k = .next t) : width = 32 ∧ ∃ r, regOfOffset off = some r ∧ k r = .next t := by
  unfold regPort at h
  split at h
  · cases h
  · split at h
    · cases h
    · split at h
      · rename_i r hr; exact ⟨by omega, r, hr, h⟩
      · cases h

/-- What a host read leaves: the host's log with a value that the state holds, or, while BUSY, with the
next free value, which is then used up. Nothing else changes (R58). -/
def readLeaves (s t : State) : Prop :=
  (∃ v, heldValue s v ∧ t = { s with hostLog := v :: s.hostLog }) ∨
    (s.status.busy = true ∧ ∃ v, drawnValue s.draws v ∧
      t = { s with hostLog := v :: s.hostLog, draws := s.draws + 1 })

theorem readCount_leaves {v : Word} {s : State} (h : heldValue s v) : readLeaves s (readCount v s) := by
  unfold readCount
  split
  · rename_i hb; exact .inr ⟨hb, _, .inl rfl, rfl⟩
  · exact .inl ⟨v, h, rfl⟩

theorem readReg_leaves (r : Reg) (s : State) : readLeaves s (readReg r s) := by
  cases r with
  | ctrl => exact .inl ⟨_, .inl rfl, rfl⟩
  | status => exact .inl ⟨_, .inr (.inl rfl), rfl⟩
  | bufLen => exact .inl ⟨_, .inr (.inr (.inl rfl)), rfl⟩
  | segCount => exact readCount_leaves (.inr (.inr (.inr (.inl rfl))))
  | malCount => exact readCount_leaves (.inr (.inr (.inr (.inr (.inl rfl)))))

theorem readIbuf_leaves (off : Nat) (s : State) : readLeaves s (readIbuf off s) :=
  .inl ⟨_, .inr (.inr (.inr (.inr (.inr ⟨off, .inl rfl⟩)))), rfl⟩

theorem readFb_leaves (off : Nat) (s : State) : readLeaves s (readFb off s) := by
  unfold readFb
  split
  · rename_i hb; exact .inr ⟨hb, _, .inr ⟨off, rfl⟩, rfl⟩
  · exact .inl ⟨_, .inr (.inr (.inr (.inr (.inr ⟨off, .inr rfl⟩)))), rfl⟩

/-- A read's answer as a host step gives it. -/
theorem hostRead_leaves {space : Space} {off width : Nat} {s t : State}
    (h : hostRead space off width s = .next t) : readLeaves s t := by
  cases space with
  | reg =>
    obtain ⟨-, r, -, h⟩ := regPort_next h
    obtain rfl : readReg r s = t := by simpa using h
    exact readReg_leaves r s
  | ibuf =>
    obtain ⟨-, -, h⟩ := bytePort_next h
    obtain rfl : readIbuf off s = t := by simpa using h
    exact readIbuf_leaves off s
  | fb =>
    obtain ⟨-, -, h⟩ := bytePort_next h
    obtain rfl : readFb off s = t := by simpa using h
    exact readFb_leaves off s

theorem regOfOffset_ctrl {off : Nat} (h : regOfOffset off = some .ctrl) : off = 0x00 := by
  by_contra h0
  revert h
  unfold regOfOffset
  rw [if_neg h0]
  split_ifs <;> simp

/-- What a host step can do: a read, nothing, one of the three hazardous writes, or an accepted START,
which only a write of CTRL with bit 0 set is. -/
theorem hostStep_cases {act : HostAct} {s t : State} (h : hostStep act s = .next t) :
    readLeaves s t ∨
    t = s ∨
    (∃ v, t = { hazard s with bufLen := legalLen s.cfg v }) ∨
    (∃ off v, off < s.cfg.ibufSize ∧ t = writeIbuf off v s) ∨
    (∃ off v, off < s.cfg.fbSize ∧ t = writeFb off v s) ∨
    (s.phase = .idle ∧ act.startsDecode s.cfg ∧ headerCheck (beginDecode s) = .next t) := by
  cases act with
  | read place width =>
    unfold hostStep at h
    simp only at h
    split at h
    · exact .inl (hostRead_leaves h)
    · cases h
  | write place width value =>
    unfold hostStep at h
    simp only at h
    split at h
    · rename_i space off hplace
      right
      cases space with
      | reg =>
        obtain ⟨hw, r, hr, h⟩ := regPort_next h
        cases r with
        | ctrl =>
          unfold writeReg at h
          simp only at h
          split at h
          · rename_i hbit
            unfold startCommand at h
            split at h
            · rename_i hp
              have hctrl : resolve s.cfg place = some (.reg, 0x00) := by
                rw [hplace, regOfOffset_ctrl hr]
              exact .inr (.inr (.inr (.inr ⟨hp, ⟨hctrl, hw, hbit⟩, h⟩)))
            · exact .inl (by simpa using h.symm)
          · exact .inl (by simpa using h.symm)
        | status => exact .inl (by simpa [writeReg] using h.symm)
        | bufLen => exact .inr (.inl ⟨value, by simpa [writeReg] using h.symm⟩)
        | segCount => exact .inl (by simpa [writeReg] using h.symm)
        | malCount => exact .inl (by simpa [writeReg] using h.symm)
      | ibuf =>
        obtain ⟨-, ho, h⟩ := bytePort_next h
        exact .inr (.inr (.inl ⟨off, _, ho, by simpa using h.symm⟩))
      | fb =>
        obtain ⟨-, ho, h⟩ := bytePort_next h
        exact .inr (.inr (.inr (.inl ⟨off, _, ho, by simpa using h.symm⟩)))
    · cases h

/-- The turn a step takes, with the script it leaves. -/
theorem step_cases {s t : State} (h : step s = .next t) :
    (s.script = [] ∧ srdStep s = .next t) ∨
    (∃ rest, s.script = .srd :: rest ∧ srdStep { s with script := rest } = .next t) ∨
    (∃ act rest, s.script = .host act :: rest ∧ hostStep act { s with script := rest } = .next t) ∨
    (∃ rest, s.script = .reset :: rest ∧ t = platformReset { s with script := rest }) := by
  unfold step takeTurn at h
  split at h
  · rename_i hs; exact .inl ⟨hs, h⟩
  · rename_i rest hs; exact .inr (.inl ⟨rest, hs, h⟩)
  · rename_i act rest hs; exact .inr (.inr (.inl ⟨act, rest, hs, h⟩))
  · rename_i rest hs; exact .inr (.inr (.inr ⟨rest, hs, by simpa using h.symm⟩))

end Sys2Proof.Machine
end

