-- ==== Sys2Proof/Laws/Decode.lean ====
section
/-! SUPPORT. When each row of the class map hits, in terms of the field MK, and the fields of a word. -/

namespace Sys2Proof

/-- A row whose mask and pattern lie in `W[28:24]` tests the field `MK` alone. -/
theorem mask_hits_iff_fieldMK (w : Word) (m p : BitVec 5) :
    (w &&& (m.setWidth 32 <<< 24) = p.setWidth 32 <<< 24) ↔ fieldMK w &&& m = p := by
  constructor
  · intro h
    apply BitVec.eq_of_getLsbD_eq
    intro i hi
    have := congrArg (fun v : Word => v.getLsbD (24 + i)) h
    have h1 : 24 + i < 32 := by omega
    have h2 : ¬ (24 + i < 24) := by omega
    simpa [fieldMK, h1, h2, hi] using this
  · intro h
    apply BitVec.eq_of_getLsbD_eq
    intro i hi
    by_cases h24 : i < 24
    · simp [h24]
    · by_cases h29 : i - 24 < 5
      · have := congrArg (fun v : BitVec 5 => v.getLsbD (i - 24)) h
        have h3 : 24 + (i - 24) = i := by omega
        simpa [fieldMK, hi, h24, h29, h3] using this
      · have hm : m.getLsbD (i - 24) = false := BitVec.getLsbD_of_ge _ _ (by omega)
        have hp : p.getLsbD (i - 24) = false := BitVec.getLsbD_of_ge _ _ (by omega)
        simp [h24, hm, hp]

theorem rowTerm_hits (w : Word) : rowTerm.hits w = decide (w = 0#32) := by
  have h : (0xFFFFFFFF#32 : Word) = BitVec.allOnes 32 := by decide
  have hw : w &&& 0xFFFFFFFF#32 = w := by rw [h, BitVec.and_allOnes]
  rw [← Bool.coe_iff_coe]
  simp only [OpRow.hits, rowTerm, hw, beq_iff_eq, decide_eq_true_eq]

theorem rowSkipB0_hits (w : Word) :
    rowSkipB0.hits w = decide (fieldMK w &&& 0b00001#5 = 0b00001#5) := by
  rw [← Bool.coe_iff_coe]; simpa [OpRow.hits, rowSkipB0] using mask_hits_iff_fieldMK w 1#5 1#5

theorem rowSkipB1_hits (w : Word) :
    rowSkipB1.hits w = decide (fieldMK w &&& 0b00011#5 = 0b00010#5) := by
  rw [← Bool.coe_iff_coe]; simpa [OpRow.hits, rowSkipB1] using mask_hits_iff_fieldMK w 3#5 2#5

theorem rowSkipB2_hits (w : Word) :
    rowSkipB2.hits w = decide (fieldMK w &&& 0b00111#5 = 0b00100#5) := by
  rw [← Bool.coe_iff_coe]; simpa [OpRow.hits, rowSkipB2] using mask_hits_iff_fieldMK w 7#5 4#5

theorem rowSkipB3_hits (w : Word) :
    rowSkipB3.hits w = decide (fieldMK w &&& 0b01111#5 = 0b01000#5) := by
  rw [← Bool.coe_iff_coe]; simpa [OpRow.hits, rowSkipB3] using mask_hits_iff_fieldMK w 15#5 8#5

theorem rowSkipB4_hits (w : Word) :
    rowSkipB4.hits w = decide (fieldMK w &&& 0b11111#5 = 0b10000#5) := by
  rw [← Bool.coe_iff_coe]; simpa [OpRow.hits, rowSkipB4] using mask_hits_iff_fieldMK w 31#5 16#5

theorem rowSpan_hits (w : Word) :
    rowSpan.hits w = decide (fieldMK w &&& 0b11111#5 = 0b00000#5) := by
  rw [← Bool.coe_iff_coe]; simpa [OpRow.hits, rowSpan] using mask_hits_iff_fieldMK w 31#5 0#5

/-- The fields of a word, put together again (R73). -/
theorem word_of_fields (w : Word) :
    fieldExt w ++ fieldMK w ++ w.extractLsb' 16 8 ++ w.extractLsb' 8 8 ++ w.extractLsb' 0 8 = w := by
  apply BitVec.eq_of_getLsbD_eq
  intro i hi
  simp only [BitVec.getLsbD_append, fieldExt, fieldMK, BitVec.getLsbD_extractLsb']
  interval_cases i <;> simp

/-- The byte view and the word view are one record (R73). -/
theorem recordOfWord_word (w : Word) : (recordOfWord w).word = w := by
  apply BitVec.eq_of_getLsbD_eq
  intro i hi
  simp only [Record.word, recordOfWord, BitVec.getLsbD_append, BitVec.getLsbD_extractLsb']
  interval_cases i <;> simp

theorem word_recordOfWord (r : Record) : recordOfWord r.word = r := by
  obtain ⟨y, x1, x2, f⟩ := r
  simp only [Record.word, recordOfWord, Record.mk.injEq]
  refine ⟨?_, ?_, ?_, ?_⟩ <;> apply BitVec.eq_of_getLsbD_eq <;> intro i hi <;>
    simp only [BitVec.getLsbD_append, BitVec.getLsbD_extractLsb'] <;> interval_cases i <;> simp

/-- The decoder on the four bytes of a word. -/
theorem decode_recordOfWord (w : Word) (rest : List Byte) :
    decode ((recordOfWord w).bytes ++ rest) = .ok (decodeWord w, rest) := by
  show Except.ok (decodeWord (recordOfWord w).word, rest) = _
  rw [recordOfWord_word]

/-- The decoder, row by row, in terms of the field MK. -/
theorem decodeWord_by_fieldMK (w : Word) :
    decodeWord w =
      if w = 0#32 then .term
      else if fieldMK w &&& 0b00001#5 = 0b00001#5 then
        .skipB0 (fieldExt w) (w.extractLsb' 25 4) (w.extractLsb' 16 8) (w.extractLsb' 8 8) (w.extractLsb' 0 8)
      else if fieldMK w &&& 0b00011#5 = 0b00010#5 then
        .skipB1 (fieldExt w) (w.extractLsb' 26 3) (w.extractLsb' 16 8) (w.extractLsb' 8 8) (w.extractLsb' 0 8)
      else if fieldMK w &&& 0b00111#5 = 0b00100#5 then
        .skipB2 (fieldExt w) (w.extractLsb' 27 2) (w.extractLsb' 16 8) (w.extractLsb' 8 8) (w.extractLsb' 0 8)
      else if fieldMK w &&& 0b01111#5 = 0b01000#5 then
        .skipB3 (fieldExt w) (w.extractLsb' 28 1) (w.extractLsb' 16 8) (w.extractLsb' 8 8) (w.extractLsb' 0 8)
      else if fieldMK w &&& 0b11111#5 = 0b10000#5 then
        .skipB4 (fieldExt w) (w.extractLsb' 16 8) (w.extractLsb' 8 8) (w.extractLsb' 0 8)
      else
        .span (fieldEX1 w) (fieldEX2 w) (fieldEY w) (w.extractLsb' 16 8) (w.extractLsb' 8 8)
          (w.extractLsb' 0 8) := by
  simp only [decodeWord, rowTerm_hits, rowSkipB0_hits, rowSkipB1_hits, rowSkipB2_hits, rowSkipB3_hits,
    rowSkipB4_hits, recordOfWord, decide_eq_true_eq]

end Sys2Proof
end

