-- ==== Sys2Proof/Laws/Invariant.lean ====
section
/-! SUPPORT. The invariants do not look at the turns to come: what a step does to `script` never touches them. -/

namespace Sys2Proof.Machine

theorem Inv.withScript {s : State} (h : Inv s) (turns : List Turn) : Inv { s with script := turns } where
  cfgWf := h.cfgWf
  busyIff := h.busyIff
  notBusyDone := h.notBusyDone
  busyFlags := h.busyFlags
  bufLenLegal := h.bufLenLegal
  lenLegal := h.lenLegal
  cpRange := h.cpRange
  clearing := h.clearing
  rpAligned := h.rpAligned
  counted := h.counted
  painting := h.painting
  lRange := h.lRange
  fbWf := h.fbWf
  ibufWf := h.ibufWf
  drawsUsed := h.drawsUsed

theorem FrameInv.withScript {s : State} (h : FrameInv s) (turns : List Turn) :
    FrameInv { s with script := turns } where
  cleared := h.cleared
  binary := h.binary
  lastColumn := h.lastColumn

/-- An idle state's frame is under no rule. -/
theorem FrameInv.of_idle {s : State} (h : s.phase = .idle) : FrameInv s where
  cleared := by simp [h]
  binary := by simp [State.decoding, h]
  lastColumn := by simp [State.decoding, h]

end Sys2Proof.Machine
end

