-- ==== Sys2Proof/Laws/Operands.lean ====
section
/-! SUPPORT. The operand forms of a SPAN, the range validator, pixel offsets and BUF_LEN's legal value. -/

namespace Sys2Proof.Machine

theorem extend_le (b : Byte) (e : Bool) : extend b e ≤ 510 := by
  have := b.isLt
  cases e <;> simp only [extend, EXT_ADD] <;> simp <;> omega

theorem adjustedY_eq (c : Config) (b : Byte) (e : Bool) :
    adjustedY c b e = (b.toNat : Int) + (if e then 255 else 0) - c.yOff := by
  cases e <;> simp [adjustedY, adjust, extend, EXT_ADD]

theorem adjustedX_eq (c : Config) (b : Byte) (e : Bool) :
    adjustedX c b e = (b.toNat : Int) + (if e then 255 else 0) - c.xOff := by
  cases e <;> simp [adjustedX, adjust, extend, EXT_ADD]

theorem spanValid_iff (c : Config) (y x1 x2 : Int) :
    spanValid c y x1 x2 = true ↔
      (0 ≤ y ∧ y ≤ (c.yMax : Int)) ∧ (0 ≤ x1 ∧ x1 ≤ (c.xMax : Int)) ∧
        (0 ≤ x2 ∧ x2 ≤ (c.xMax : Int)) := by
  simp [spanValid, and_assoc]

/-- A pixel of the frame is a byte of FB (R53, R54). -/
theorem pixelOffset_in_fb (c : Config) {y l : Int} (hy : 0 ≤ y ∧ y ≤ c.yMax) (hl : 0 ≤ l ∧ l ≤ c.xMax) :
    0 ≤ pixelOffset c y l ∧ pixelOffset c y l < (c.fbSize : Int) := by
  unfold pixelOffset Config.fbSize Config.fbH Config.fbW
  push_cast
  have h0 : 0 ≤ y * ((c.xMax : Int) + 1) := mul_nonneg hy.1 (by omega)
  have h1 : y * ((c.xMax : Int) + 1) ≤ c.yMax * ((c.xMax : Int) + 1) :=
    mul_le_mul_of_nonneg_right hy.2 (by omega)
  constructor
  · omega
  · linarith [hl.2]

theorem legalLen_toNat (c : Config) (v : Word) (h : c.ibufSize ≤ 4294967295) :
    (legalLen c v).toNat = min v.toNat c.ibufSize := by
  unfold legalLen
  split
  · omega
  · simp only [BitVec.toNat_ofNat]; omega

/-- The read pointer does not wrap while a window is left (R33). -/
theorem rp_advance {s : State} (h : s.rp.toNat + 4 ≤ s.len.toNat) :
    (s.rp + BitVec.ofNat 32 REC_LEN).toNat = s.rp.toNat + 4 := by
  have := s.len.isLt
  simp only [REC_LEN, BitVec.toNat_add, BitVec.toNat_ofNat]
  omega

end Sys2Proof.Machine
end

