-- ==== Sys2Proof/Laws/PerInstr.lean ====
section
/-! SUPPORT. One lemma per constructor of Instr: R77's priority test gives the word of a well-formed record
the record's own class. -/

namespace Sys2Proof

/-- The field MK of a word put together from its fields (R73). -/
theorem fieldMK_of_fields (ext : BitVec 3) (mk : BitVec 5) (x2 x1 y : Byte) :
    fieldMK (ext ++ mk ++ x2 ++ x1 ++ y) = mk := by
  apply BitVec.eq_of_getLsbD_eq
  intro i hi
  simp only [fieldMK, BitVec.getLsbD_append, BitVec.getLsbD_extractLsb']
  interval_cases i <;> simp

/-- A word with a bit of MK set is a SKIP, whatever else it holds. -/
theorem classify_of_fieldMK_ne {w : Word} (h : fieldMK w ≠ 0#5) : classify w = .skip := by
  have hw : w ≠ 0#32 := by
    rintro rfl
    exact h (by decide)
  rw [classify, if_neg hw, if_pos h]

/-- A word with `MK = 0` is a SPAN unless it is zero. -/
theorem classify_of_fieldMK_eq {w : Word} (hw : w ≠ 0#32) (h : fieldMK w = 0#5) :
    classify w = .span := by
  rw [classify, if_neg hw, if_neg (not_not.mpr h)]

/-- The word of a SPAN by its fields. -/
theorem encode_span_fields (ex1 ex2 ey : Bool) (x2 x1 y : Byte) :
    encode (.span ex1 ex2 ey x2 x1 y) =
      (BitVec.ofBool ex1 ++ BitVec.ofBool ex2 ++ BitVec.ofBool ey) ++ 0#5 ++ x2 ++ x1 ++ y := rfl

/-- A well-formed SPAN's word is not the terminator's. -/
theorem encode_span_ne_zero {ex1 ex2 ey : Bool} {x2 x1 y : Byte}
    (h : spanNotTerminator ex1 ex2 ey x2 x1 y = true) : encode (.span ex1 ex2 ey x2 x1 y) ≠ 0#32 := by
  intro hz
  have hb : ∀ i, (encode (.span ex1 ex2 ey x2 x1 y)).getLsbD i = false := by simp [hz]
  simp only [encode_span_fields, BitVec.getLsbD_append] at hb
  have hy : y = 0#8 := by
    apply BitVec.eq_of_getLsbD_eq
    intro i hi
    simpa [hi] using hb i
  have h1 : x1 = 0#8 := by
    apply BitVec.eq_of_getLsbD_eq
    intro i hi
    simpa [hi] using hb (8 + i)
  have h2 : x2 = 0#8 := by
    apply BitVec.eq_of_getLsbD_eq
    intro i hi
    have := hb (16 + i)
    simpa [hi, show ¬ (16 + i < 8) by omega, show 16 + i - 8 = 8 + i by omega] using this
  have he : ey = false := by simpa using hb 29
  have he2 : ex2 = false := by simpa using hb 30
  have he1 : ex1 = false := by simpa using hb 31
  subst hy h1 h2 he he2 he1
  exact absurd h (by decide)

end Sys2Proof

namespace Sys2Proof.Laws.ClassOfWord

/-- R77's test, applied to the word of a well-formed record, gives the class of its row (R79). -/
def Statement (i : Instr) : Prop := i.wf = true → classify (encode i) = i.cls

theorem term : Statement .term := fun _ => by decide

theorem skipB0 (ext : BitVec 3) (mkHi : BitVec 4) (x2 x1 y : Byte) :
    Statement (.skipB0 ext mkHi x2 x1 y) := fun _ => by
  have hw : encode (.skipB0 ext mkHi x2 x1 y) = ext ++ (mkHi ++ 0b1#1) ++ x2 ++ x1 ++ y := by
    simp only [encode, BitVec.append_assoc, BitVec.cast_eq]
  have hne : ∀ m : BitVec 4, m ++ 0b1#1 ≠ 0#5 := by decide
  apply classify_of_fieldMK_ne
  rw [hw, fieldMK_of_fields]
  exact hne mkHi

theorem skipB1 (ext : BitVec 3) (mkHi : BitVec 3) (x2 x1 y : Byte) :
    Statement (.skipB1 ext mkHi x2 x1 y) := fun _ => by
  have hw : encode (.skipB1 ext mkHi x2 x1 y) = ext ++ (mkHi ++ 0b10#2) ++ x2 ++ x1 ++ y := by
    simp only [encode, BitVec.append_assoc, BitVec.cast_eq]
  have hne : ∀ m : BitVec 3, m ++ 0b10#2 ≠ 0#5 := by decide
  apply classify_of_fieldMK_ne
  rw [hw, fieldMK_of_fields]
  exact hne mkHi

theorem skipB2 (ext : BitVec 3) (mkHi : BitVec 2) (x2 x1 y : Byte) :
    Statement (.skipB2 ext mkHi x2 x1 y) := fun _ => by
  have hw : encode (.skipB2 ext mkHi x2 x1 y) = ext ++ (mkHi ++ 0b100#3) ++ x2 ++ x1 ++ y := by
    simp only [encode, BitVec.append_assoc, BitVec.cast_eq]
  have hne : ∀ m : BitVec 2, m ++ 0b100#3 ≠ 0#5 := by decide
  apply classify_of_fieldMK_ne
  rw [hw, fieldMK_of_fields]
  exact hne mkHi

theorem skipB3 (ext : BitVec 3) (mkHi : BitVec 1) (x2 x1 y : Byte) :
    Statement (.skipB3 ext mkHi x2 x1 y) := fun _ => by
  have hw : encode (.skipB3 ext mkHi x2 x1 y) = ext ++ (mkHi ++ 0b1000#4) ++ x2 ++ x1 ++ y := by
    simp only [encode, BitVec.append_assoc, BitVec.cast_eq]
  have hne : ∀ m : BitVec 1, m ++ 0b1000#4 ≠ 0#5 := by decide
  apply classify_of_fieldMK_ne
  rw [hw, fieldMK_of_fields]
  exact hne mkHi

theorem skipB4 (ext : BitVec 3) (x2 x1 y : Byte) : Statement (.skipB4 ext x2 x1 y) := fun _ => by
  apply classify_of_fieldMK_ne
  rw [show encode (.skipB4 ext x2 x1 y) = ext ++ 0b10000#5 ++ x2 ++ x1 ++ y from rfl,
    fieldMK_of_fields]
  decide

theorem span (ex1 ex2 ey : Bool) (x2 x1 y : Byte) : Statement (.span ex1 ex2 ey x2 x1 y) := fun h => by
  apply classify_of_fieldMK_eq (encode_span_ne_zero h)
  rw [encode_span_fields, fieldMK_of_fields]

end Sys2Proof.Laws.ClassOfWord
end

