-- ==== Sys2Proof/Laws/Reference.lean ====
section
/-! SUPPORT. The reference function of R113 window by window, its painter, and agreement of results. -/

namespace Sys2Proof.Machine

theorem DecodeResult.agree_refl (c : Config) (r : DecodeResult) : r.agree c r :=
  ⟨fun _ _ => rfl, rfl, rfl, rfl, rfl⟩

theorem DecodeResult.agree_symm {c : Config} {a b : DecodeResult} (h : a.agree c b) : b.agree c a :=
  ⟨fun x hx => (h.1 x hx).symm, h.2.1.symm, h.2.2.1.symm, h.2.2.2.1.symm, h.2.2.2.2.symm⟩

theorem DecodeResult.agree_trans {c : Config} {a b d : DecodeResult} (h : a.agree c b)
    (h' : b.agree c d) : a.agree c d :=
  ⟨fun x hx => (h.1 x hx).trans (h'.1 x hx), h.2.1.trans h'.2.1, h.2.2.1.trans h'.2.2.1,
    h.2.2.2.1.trans h'.2.2.2.1, h.2.2.2.2.trans h'.2.2.2.2⟩

/-- Which bytes the painter of R113 sets. -/
theorem refPaint_eq (c : Config) (y : Int) : ∀ (n : Nat) (l : Int) (fb : Nat → Byte) (a : Nat),
    refPaint c y l fb n a =
      if y * (c.fbW : Int) + l ≤ a ∧ (a : Int) < y * (c.fbW : Int) + l + n then PIX_ON else fb a
  | 0, l, fb, a => by unfold refPaint; rw [if_neg (by push_cast; omega)]
  | n + 1, l, fb, a => by
    unfold refPaint
    rw [refPaint_eq]
    generalize y * (c.fbW : Int) = q
    push_cast
    split_ifs <;> first | rfl | omega

theorem refPaint_congr (c : Config) (y l : Int) (n : Nat) {f g : Nat → Byte} {a : Nat} (h : f a = g a) :
    refPaint c y l f n a = refPaint c y l g n a := by rw [refPaint_eq, refPaint_eq, h]

/-- R113's extension tests are the extension bits of the flags (R74). -/
theorem refExt_eq_bits (f : Byte) :
    refExt f EY_BIT = (if f.getLsbD 5 then 255 else 0) ∧
      refExt f EX1_BIT = (if f.getLsbD 7 then 255 else 0) ∧
      refExt f EX2_BIT = (if f.getLsbD 6 then 255 else 0) := by
  revert f; decide

/-- R113's coordinates are those of R75 and R151. -/
theorem refCoords_eq_adjusted (c : Config) (yb x1b x2b f : Byte) :
    refCoords c yb x1b x2b f =
      (adjustedY c yb (f.getLsbD 5), adjustedX c x1b (f.getLsbD 7), adjustedX c x2b (f.getLsbD 6)) := by
  obtain ⟨h5, h7, h6⟩ := refExt_eq_bits f
  rw [refCoords, h5, h7, h6, adjustedY_eq, adjustedX_eq, adjustedX_eq]

theorem refValid_iff_spanValid (c : Config) (y x1 x2 : Int) :
    refValid c y x1 x2 ↔ spanValid c y x1 x2 = true := (spanValid_iff c y x1 x2).symm

theorem refScan_end {c : Config} {buf : Nat → Byte} {len p : Nat} (k : Nat) (acc : DecodeResult)
    (h : len < p + 4) : refScan c buf len k p acc = acc := by
  cases k with
  | zero => rfl
  | succ k => unfold refScan; rw [if_neg (by omega)]

theorem refScan_terminator {c : Config} {buf : Nat → Byte} {len p : Nat} (k : Nat) (acc : DecodeResult)
    (h : p + 4 ≤ len)
    (hz : buf p = 0#8 ∧ buf (p + 1) = 0#8 ∧ buf (p + 2) = 0#8 ∧ buf (p + 3) = 0#8) :
    refScan c buf len (k + 1) p acc = { acc with term := true } := by
  unfold refScan; rw [if_pos h]; exact if_pos hz

theorem refScan_marker {c : Config} {buf : Nat → Byte} {len p : Nat} (k : Nat) (acc : DecodeResult)
    (h : p + 4 ≤ len) (hm : buf (p + 3) &&& MK_MASK ≠ 0#8) :
    refScan c buf len (k + 1) p acc = refScan c buf len k (p + 4) acc := by
  have hz : ¬ (buf p = 0#8 ∧ buf (p + 1) = 0#8 ∧ buf (p + 2) = 0#8 ∧ buf (p + 3) = 0#8) := by
    rintro ⟨-, -, -, h3⟩
    rw [h3] at hm
    exact hm (by decide)
  conv_lhs => unfold refScan
  rw [if_pos h]
  simp only
  rw [if_neg hz, if_pos hm]

theorem windowsFrom_end {buf : Nat → Byte} {len p : Nat} (k : Nat) (h : len < p + 4) :
    windowsFrom buf len k p = [] := by
  cases k with
  | zero => rfl
  | succ k => unfold windowsFrom; rw [if_neg (by omega)]

theorem windowsFrom_step {buf : Nat → Byte} {len p : Nat} (k : Nat) (h : p + 4 ≤ len) :
    windowsFrom buf len (k + 1) p =
      if classify (windowAt buf p).word = .term then [windowAt buf p]
      else windowAt buf p :: windowsFrom buf len k (p + 4) := by
  conv_lhs => unfold windowsFrom
  rw [if_pos h]

/-- One bound more than there are windows changes nothing. -/
theorem windowsFrom_bound (buf : Nat → Byte) (len : Nat) : ∀ k p, len < p + 4 * (k + 1) →
    windowsFrom buf len (k + 1) p = windowsFrom buf len k p
  | 0, p, h => by rw [windowsFrom_end _ (by omega), windowsFrom_end _ (by omega)]
  | k + 1, p, h => by
    by_cases hp : p + 4 ≤ len
    · rw [windowsFrom_step _ hp, windowsFrom_step _ hp, windowsFrom_bound buf len k (p + 4) (by omega)]
    · rw [windowsFrom_end _ (by omega), windowsFrom_end _ (by omega)]

/-- What a finish without a hazard leaves as results. -/
theorem resultOf_finish {s : State} (st : Status) (h : s.taint = false) :
    resultOf (finish { s with status := st }) =
      { resultOf s with unk := st.unknownMsg, term := st.termSeen } := by
  rw [finish_of_untainted (by simpa using h)]
  simp [resultOf, finishExact, Status.finished]

/-- The outcome of a decode does not look at the turns to come. -/
@[simp] theorem outcomeOf_script (s : State) (turns : List Turn) :
    outcomeOf { s with script := turns } = outcomeOf s := by
  cases hp : s.phase <;> simp [outcomeOf, hp, resultOf]

end Sys2Proof.Machine
end

