-- ==== Sys2Proof/Laws/Run.lean ====
section
/-! SUPPORT. Runs of the machine: one step more, two runs after each other, and the host's own runner. -/

namespace Sys2Proof.Machine

@[simp] theorem runFor_zero (s : State) : runFor 0 s = .next s := rfl

theorem runFor_succ {n : Nat} {s t : State} (h : step s = .next t) : runFor (n + 1) s = runFor n t := by
  simp only [runFor, h]

theorem runFor_add : ∀ {n m : Nat} {s t : State}, runFor n s = .next t → runFor (n + m) s = runFor m t
  | 0, m, s, t, h => by simp only [runFor, Host.Outcome.next.injEq] at h; subst h; simp
  | n + 1, m, s, t, h => by
    cases hs : step s with
    | next u =>
      rw [runFor_succ hs] at h
      rw [show n + 1 + m = (n + m) + 1 by omega, runFor_succ hs]
      exact runFor_add h
    | fault f => simp only [runFor, hs] at h; cases h
    | refused r => simp only [runFor, hs] at h; cases h

theorem runFor_eq_core_run (n : Nat) (s : State) : runFor n s = Sys2Proof.core.run n s := by
  induction n generalizing s with
  | zero => rfl
  | succ n ih =>
    have hc : Sys2Proof.core.step s = step s := rfl
    simp only [runFor, Host.Core.run, hc]
    cases step s with
    | next t => exact ih t
    | fault f => rfl
    | refused r => rfl

/-- A turn of the SRD, with the script it leaves. -/
theorem step_of_srdNext {s : State} {rest : List Turn} (h : srdNext s rest) :
    step s = srdStep { s with script := rest } := by
  rcases h with h | ⟨h, rfl⟩
  · simp [step, takeTurn, h]
  · have hs : { s with script := [] } = s := by cases s; simp_all
    simp [step, takeTurn, h, hs]

/-- A turn of the host, with the script it leaves. -/
theorem step_of_hostNext {s : State} {act : HostAct} {rest : List Turn} (h : hostNext s act rest) :
    step s = hostStep act { s with script := rest } := by
  unfold hostNext at h
  simp [step, takeTurn, h]

end Sys2Proof.Machine
end

