-- ==== Sys2Proof/Tests/Slice0.lean ====
section
/-! SUPPORT. Tests with expected results from spec/95_test_vectors.md and the rules, and, for every obligation
with hypotheses, a state and operands that meet them all. -/

namespace Sys2Proof.Tests
open Sys2Proof Sys2Proof.Machine

/-! ### Small machines -/

/-- A small SRD: two rows of three pixels, sixteen bytes of input, no calibration. -/
def tinyConfig : Config :=
  { yOff := 0, xOff := 0, yMax := 1, xMax := 2, ibufSize := 16,
    regBase := 0, ibufBase := 0x100, fbBase := 0x200 }

/-- The reference geometry's SRD at reset. -/
def refState : State := State.resetWith Config.reference 0

/-- The small SRD at reset. -/
def tinyState : State := State.resetWith tinyConfig 0

/-- The bytes of a buffer in IBUF, `n` of them its length. -/
def loaded (s : State) (bytes : List Byte) (n : Word) : State :=
  { s with ibuf := s.ibuf.writeAll 0 bytes, bufLen := n }

/-- BUSY alone. -/
def busyStatus : Status := ⟨true, false, false, false⟩

/-- DONE alone. -/
def doneStatus : Status := ⟨false, true, false, false⟩

/-- An SRD that scans a buffer, its next window at `rp`, its clear done. -/
def scanning (s : State) (bytes : List Byte) (rp len : Word) : State :=
  { loaded s bytes len with
    phase := .scan, rp := rp, len := len, status := busyStatus, cp := s.cfg.fbSize
    fb := s.fb.writeAll 0 (List.replicate 6 PIX_OFF) }

/-- The host's access is the next turn. -/
def hostTurn (s : State) (act : HostAct) : State := { s with script := [.host act] }

/-- The same with the SRD at work. -/
def busy (s : State) : State := { s with phase := .scan, status := busyStatus }

/-- What a result's next state holds, where it has one. -/
def after {α : Type} (r : Result) (f : State → α) : Option α :=
  match r with
  | .next t => some (f t)
  | .fault _ => none
  | .refused _ => none

/-- The refusal, where a result is one. -/
def refusal (r : Result) : Option Refusal :=
  match r with
  | .next _ => none
  | .fault _ => none
  | .refused q => some q

/-! ### Well-formedness -/

theorem test_wf_refuses_zero_span : (Instr.span false false false 0#8 0#8 0#8).wf = false := by decide
theorem test_wf_takes_span_with_one_bit : (Instr.span false false true 0#8 0#8 0#8).wf = true := by decide

/-! ### Decoding: words written out field by field from R73 and R79 -/

theorem test_decode_term : decodeWord (0b000#3 ++ 0b00000#5 ++ 0#8 ++ 0#8 ++ 0#8) = .term := by decide
/-- V-SKIP, `FF FF FF FF`: row 2. -/
theorem test_decode_skipB0 :
    decodeWord (0b111#3 ++ 0b11111#5 ++ 0xFF#8 ++ 0xFF#8 ++ 0xFF#8) =
      .skipB0 0b111#3 0b1111#4 0xFF#8 0xFF#8 0xFF#8 := by decide
/-- V-SKIP, `0B 29 2B 02`: row 3. -/
theorem test_decode_skipB1 :
    decodeWord (0b000#3 ++ 0b00010#5 ++ 0x2B#8 ++ 0x29#8 ++ 0x0B#8) =
      .skipB1 0b000#3 0b000#3 0x2B#8 0x29#8 0x0B#8 := by decide
/-- V-SKIP, `0B 29 2B 04`: row 4. -/
theorem test_decode_skipB2 :
    decodeWord (0b000#3 ++ 0b00100#5 ++ 0x2B#8 ++ 0x29#8 ++ 0x0B#8) =
      .skipB2 0b000#3 0b00#2 0x2B#8 0x29#8 0x0B#8 := by decide
/-- V-SKIP, `0B 29 2B 08`: row 5. -/
theorem test_decode_skipB3 :
    decodeWord (0b000#3 ++ 0b01000#5 ++ 0x2B#8 ++ 0x29#8 ++ 0x0B#8) =
      .skipB3 0b000#3 0b0#1 0x2B#8 0x29#8 0x0B#8 := by decide
/-- V-SKIP, `0B 29 2B 10`: row 6. -/
theorem test_decode_skipB4 :
    decodeWord (0b000#3 ++ 0b10000#5 ++ 0x2B#8 ++ 0x29#8 ++ 0x0B#8) =
      .skipB4 0b000#3 0x2B#8 0x29#8 0x0B#8 := by decide
/-- V-EXT, `0B 00 2B 80`: EX1 is bit 31. -/
theorem test_decode_span_ex1 :
    decodeWord (0b1#1 ++ 0b0#1 ++ 0b0#1 ++ 0b00000#5 ++ 0x2B#8 ++ 0x00#8 ++ 0x0B#8) =
      .span true false false 0x2B#8 0x00#8 0x0B#8 := by decide
/-- V-EXT, `0B 29 8F 40`: EX2 is bit 30. -/
theorem test_decode_span_ex2 :
    decode [0x0B#8, 0x29#8, 0x8F#8, 0x40#8, 0xAA#8] =
      .ok (.span false true false 0x8F#8 0x29#8 0x0B#8, [0xAA#8]) := by rfl
/-- R70: three bytes form no window. -/
theorem test_decode_partial : decode [0#8, 0#8, 0#8] = .error .partialWindow := by rfl
/-- R88: `05 32 3C 20` is the word `0x203C3205`. -/
theorem test_encode_worked_record :
    encode (.span false false true 0x3C#8 0x32#8 0x05#8) = 0x203C3205#32 ∧
      encodeBytes (.span false false true 0x3C#8 0x32#8 0x05#8) = [0x05#8, 0x32#8, 0x3C#8, 0x20#8] := by
  decide

/-! ### One record each -/

/-- L1-2: DONE, TERM_SEEN is `0xA`. -/
theorem test_term_status :
    after (exec .term (busy refState)) (fun t => (t.status.word, t.phase)) = some (0x0000000A#32, .idle) := by
  decide
/-- R111: BUSY and DONE are exact after a hazard. -/
theorem test_term_tainted :
    after (exec .term { busy refState with taint := true }) (fun t => (t.status.busy, t.status.done)) =
      some (false, true) := by decide
theorem test_skipB0_no_effect :
    after (exec (.skipB0 7#3 15#4 0xFF#8 0xFF#8 0xFF#8) (busy refState)) (fun t => decide (t = busy refState)) =
      some true := by decide
theorem test_skipB1_no_effect :
    after (exec (.skipB1 0#3 0#3 0x2B#8 0x29#8 0x0B#8) (busy refState)) (fun t => (t.segCount, t.malCount)) =
      some (0#32, 0#32) := by decide
theorem test_skipB2_no_effect :
    after (exec (.skipB2 0#3 0#2 0x2B#8 0x29#8 0x0B#8) (busy refState)) (fun t => (t.segCount, t.malCount)) =
      some (0#32, 0#32) := by decide
theorem test_skipB3_no_effect :
    after (exec (.skipB3 0#3 0#1 0x2B#8 0x29#8 0x0B#8) (busy refState)) (fun t => (t.segCount, t.malCount)) =
      some (0#32, 0#32) := by decide
theorem test_skipB4_phase_stays :
    after (exec (.skipB4 0#3 0x2B#8 0x29#8 0x0B#8) (busy refState)) (fun t => (t.phase, t.status.termSeen)) =
      some (.scan, false) := by decide
/-- L1-1: `05 32 3C 20` is (249, 9, 19), accepted. -/
theorem test_span_worked_example :
    after (exec (.span false false true 0x3C#8 0x32#8 0x05#8) (busy refState))
      (fun t => (t.y, t.x1, t.x2, t.l, t.segCount, t.phase)) = some (249, 9, 19, 9, 1#32, .paint) := by decide
/-- V-EXT, the largest values: `FF FF FF E0` is (499, 469, 469), out of range. -/
theorem test_span_largest_values :
    after (exec (.span true true true 0xFF#8 0xFF#8 0xFF#8) (busy refState))
      (fun t => (t.y, t.x1, t.x2, t.malCount, t.phase)) = some (499, 469, 469, 1#32, .scan) := by decide

/-! ### The steps of the SRD and the host -/

/-- V-PAINT: the first pixel of (249, 9, 19) is offset 88902. -/
theorem test_paint_first_pixel :
    after (step { busy refState with phase := .paint, y := 249, x1 := 9, x2 := 19, l := 9 })
      (fun t => (t.fb.cells, t.l, t.phase)) = some ([(88902, 255#8)], 10, .paint) := by decide
/-- R158: at the end column the painter returns. -/
theorem test_paint_end :
    after (step { busy refState with phase := .paint, y := 249, x1 := 9, x2 := 19, l := 19 })
      (fun t => (t.fb.cells, t.phase)) = some ([], .scan) := by decide
/-- R105: the last byte of FB, offset 103529. -/
theorem test_clear_last_byte :
    after (step { busy refState with phase := .clear, cp := 103529 })
      (fun t => (t.fb.cells, t.cp, t.phase)) = some ([(103529, 0#8)], 103530, .clear) := by decide
/-- R107's example: with `LEN = 13` and `RP = 10` the step finishes. -/
theorem test_scan_partial_window :
    after (step { busy refState with rp := 10#32, len := 13#32 }) (fun t => (t.phase, t.status.word, t.rp)) =
      some (.idle, 0x00000002#32, 10#32) := by decide
/-- R100's example: BUF_LEN = 10, `IBUF[1] = 0x1C`. -/
theorem test_start :
    after (step (hostTurn (loaded refState [0x00#8, 0x1C#8] 10#32) (.write (.offset .reg 0) 32 1#32)))
      (fun t => (t.status.word, t.phase, t.cp, t.len)) = some (0x00000001#32, .clear, 0, 10#32) := by decide
/-- V-HDR: `1C 00`, the marker in the wrong byte, and V-HOST: STATUS is `0x6`. -/
theorem test_bad_marker :
    after (step (hostTurn (loaded refState [0x1C#8, 0x00#8] 2#32) (.write (.offset .reg 0) 32 1#32)))
      (fun t => (t.status.word, t.phase, t.fb.cells)) = some (0x00000006#32, .idle, []) := by decide
/-- V-HDR: `1C` alone, length 1. -/
theorem test_short_buffer :
    after (step (hostTurn (loaded refState [0x1C#8, 0x1C#8] 1#32) (.write (.offset .reg 0) 32 1#32)))
      (fun t => t.status.word) = some 0x00000006#32 := by decide
/-- V-HOST: with IBUF_SIZE 4096, BUF_LEN = `0xFFFFFFFF` reads 4096. -/
theorem test_buf_len_is_warl :
    after (step (hostTurn refState (.write (.offset .reg 8) 32 0xFFFFFFFF#32))) (fun t => t.bufLen) =
      some 4096#32 := by decide
/-- V-HOST: the reset STATUS reads 0; the same by its platform address. -/
theorem test_status_read :
    after (step (hostTurn refState (.read (.platform 4) 32))) (fun t => t.hostLog) = some [0#32] := by decide
/-- R206: a write of FB while BUSY sets TAINT. -/
theorem test_fb_write_hazard :
    after (step (hostTurn (busy refState) (.write (.offset .fb 0) 8 5#32))) (fun t => t.taint) =
      some true := by decide
/-- R56: a byte access of REG, a misaligned one, and one that names no register. -/
theorem test_refused_accesses :
    refusal (step (hostTurn refState (.read (.offset .reg 4) 8))) = some .accessWidth ∧
      refusal (step (hostTurn refState (.read (.offset .reg 6) 32))) = some .misalignedRegister ∧
      refusal (step (hostTurn refState (.read (.offset .reg 0x14) 32))) = some .noSuchRegister ∧
      refusal (step (hostTurn refState (.read (.offset .fb 103530) 8))) = some .outsideSpace ∧
      refusal (step (hostTurn refState (.read (.platform 0x14) 32))) = some .unmappedAddress := by decide
/-- R200: a reset in the middle of a decode. -/
theorem test_platform_reset :
    after (step { busy refState with script := [.reset], segCount := 3#32, bufLen := 9#32 })
      (fun t => (t.status.word, t.phase, t.segCount, t.bufLen)) =
      some (0#32, .idle, 0#32, 0#32) := by decide

/-! ### A record placed by the host after reset runs at once -/

theorem test_fetch_term :
    after (step (State.reset.withFetchWord 32 0x00000000)) (fun t => (t.status.word, t.rp)) =
      some (0x0000000A#32, 6#32) := by decide
theorem test_fetch_skip :
    after (step (State.reset.withFetchWord 32 0x022B290B)) (fun t => (t.phase, t.latch, t.rp)) =
      some (.scan, ⟨0x0B#8, 0x29#8, 0x2B#8, 0x02#8⟩, 6#32) := by decide
theorem test_fetch_span :
    after (step (State.reset.withFetchWord 32 0x203C3205)) (fun t => (t.phase, t.y, t.segCount)) =
      some (.paint, 249, 1#32) := by decide

/-! ### The buffer notation -/

/-- Program P1 of spec/95_test_vectors.md assembles to its 18 bytes. -/
theorem test_assemble_program_1 :
    assemble Config.reference
      [.prior (.fill 0x55#8), .hdr (some 0), .span 249 9 19, .span 0 0 2, .term, .span 10 5 7] =
    some ⟨[0x00#8, 0x1C#8, 0x05#8, 0x32#8, 0x3C#8, 0x20#8, 0x0B#8, 0x29#8, 0x2B#8, 0x00#8,
      0x00#8, 0x00#8, 0x00#8, 0x00#8, 0x15#8, 0x2E#8, 0x30#8, 0x00#8], 18, .fill 0x55#8⟩ := by decide
/-- V-ASM: `SPAN 289, 0, 356` and `SPAN 244, 0, 4` (the 255 value uses EY = 0). -/
theorem test_assemble_spans :
    emit Config.reference (.span 289 0 356) = some [0x2D#8, 0x29#8, 0x8E#8, 0x60#8] ∧
      emit Config.reference (.span 244 0 4) = some [0xFF#8, 0x29#8, 0x2D#8, 0x00#8] ∧
      emit Config.reference (.skip 31) = some [0#8, 0#8, 0#8, 0x1F#8] ∧
      emit Config.reference (.span 290 0 0) = none := by decide
/-- A line of program P1, with its comment. -/
theorem test_parse_line :
    parseLine ['S', 'P', 'A', 'N', ' ', '2', '4', '9', ',', ' ', '9', ',', ' ', '1', '9', ' ', ';', '0'] =
      some (some (.span 249 9 19)) ∧
    parseLine ['P', 'R', 'I', 'O', 'R', ' ', 'f', 'i', 'l', 'l', ' ', '0', 'x', '5', '5'] =
      some (some (.prior (.fill 0x55#8))) := by decide
/-- Program P4: `LEN 2` keeps the record out of the buffer. -/
theorem test_assemble_len :
    (assemble Config.reference [.len 2, .hdr none, .span 0 0 2]).map Image.bufLen = some 2 := by decide

/-! ### Witnesses: a state and operands that meet every hypothesis of an obligation -/

/-- The small SRD between decodes, with the 6-byte buffer of one record, `SPAN 1, 0, 2`. -/
def spanBuffer : List Byte := [0x00#8, 0x1C#8, 0x01#8, 0x00#8, 0x02#8, 0x00#8]

/-- The small SRD with that buffer, about to be started. -/
def readyState : State := loaded tinyState spanBuffer 6#32

/-- The small SRD at the last window of that buffer. -/
def scanState : State := scanning tinyState spanBuffer 2#32 6#32

/-- The small SRD past its last window. -/
def endState : State := scanning tinyState spanBuffer 6#32 6#32

/-- The small SRD in the middle of the clear. -/
def clearState : State :=
  { loaded tinyState spanBuffer 6#32 with
    phase := .clear, len := 6#32, status := busyStatus, cp := 5
    fb := tinyState.fb.writeAll 0 (List.replicate 5 PIX_OFF) }

/-- The small SRD painting row 1, columns 0 and 1. -/
def paintState : State :=
  { scanState with phase := .paint, rp := 6#32, segCount := 1#32, y := 1, x1 := 0, x2 := 2, l := 0 }

theorem tinyConfig_wf : tinyConfig.wf := by decide
theorem readyState_inv : Inv readyState := by constructor <;> decide
theorem scanState_inv : Inv scanState := by constructor <;> decide
theorem endState_inv : Inv endState := by constructor <;> decide
theorem clearState_inv : Inv clearState := by constructor <;> decide
theorem paintState_inv : Inv paintState := by constructor <;> decide
theorem scanState_frameInv : FrameInv scanState := by constructor <;> decide
theorem endState_frameInv : FrameInv endState := by constructor <;> decide
theorem clearState_frameInv : FrameInv clearState := by
  refine ⟨fun _ _ => by decide, by decide, by decide⟩
theorem paintState_frameInv : FrameInv paintState := by constructor <;> decide

theorem not_resetNext {s : State} (h : s.script = []) : ¬ resetNext s := by
  rintro ⟨rest, hr⟩
  rw [h] at hr
  cases hr

theorem not_resetNext_hostTurn (s : State) (act : HostAct) : ¬ resetNext (hostTurn s act) := by
  rintro ⟨rest, hr⟩
  cases hr

theorem witness_DecodeEncodeRoundTrip :
    ∀ i ∈ [Instr.term, .skipB0 7#3 15#4 0xFF#8 0xFF#8 0xFF#8, .skipB4 0#3 0#8 0#8 0#8,
      .span false false false 0#8 0#8 1#8, .span true true true 0xFF#8 0xFF#8 0xFF#8],
      i.wf = true := by decide

theorem witness_OpcodeTableGivesTheClasses :
    (0x01000000#32).extractLsb' 24 5 ≠ 0#5 ∧ (0x1F000000#32).extractLsb' 24 5 ≠ 0#5 ∧
      (0xE0FFFFFF#32).extractLsb' 24 5 = 0#5 ∧ (decodeWord 0x00000001#32).cls = .span := by decide

theorem witness_SpanOperandsFromBytes :
    (0xE0#8 &&& 0x1F#8 = 0#8 ∧ ¬ ((0#8 : Byte) = 0#8 ∧ (0#8 : Byte) = 0#8 ∧ (0#8 : Byte) = 0#8 ∧ 0xE0#8 = 0#8)) ∧
      (0#8 &&& 0x1F#8 = 0#8 ∧
        ¬ ((1#8 : Byte) = 0#8 ∧ (0#8 : Byte) = 0#8 ∧ (0#8 : Byte) = 0#8 ∧ (0#8 : Byte) = 0#8)) := by decide

theorem witness_AssembledSpanKeepsItsCoordinates :
    Config.reference.hasReferenceGeometry ∧ ((289 ≤ 289 ∧ 356 ≤ 356 ∧ 356 ≤ 356) : Prop) ∧
      ¬ (290 ≤ 289 ∧ 0 ≤ 356 ∧ 0 ≤ 356) ∧ ¬ (0 ≤ 289 ∧ 357 ≤ 356 ∧ 0 ≤ 356) ∧
      ¬ (0 ≤ 289 ∧ 0 ≤ 356 ∧ 357 ≤ 356) := by decide

theorem witness_TermStopsTheDecode :
    scanState.taint = false ∧ ({ scanState with taint := true } : State).taint = true := by decide

theorem witness_SkipWritesNoState :
    (Instr.skipB0 0#3 0#4 0#8 0#8 0#8).cls = .skip ∧ (Instr.skipB1 0#3 0#3 0#8 0#8 0#8).cls = .skip ∧
      (Instr.skipB2 0#3 0#2 0#8 0#8 0#8).cls = .skip ∧ (Instr.skipB3 0#3 0#1 0#8 0#8 0#8).cls = .skip ∧
      (Instr.skipB4 0#3 0#8 0#8 0#8).cls = .skip := by decide

/-- The hypotheses of a SPAN statement: the bytes give the coordinates (R75, R151). -/
abbrev spanGives (c : Config) (ex1 ex2 ey : Bool) (x2b x1b yb : Byte) (y x1 x2 : Int) : Prop :=
  y = (yb.toNat : Int) + (if ey then 255 else 0) - c.yOff ∧
  x1 = (x1b.toNat : Int) + (if ex1 then 255 else 0) - c.xOff ∧
  x2 = (x2b.toNat : Int) + (if ex2 then 255 else 0) - c.xOff

/-- The range condition of a SPAN statement. -/
abbrev inRange (c : Config) (y x1 x2 : Int) : Prop :=
  (0 ≤ y ∧ y ≤ c.yMax) ∧ (0 ≤ x1 ∧ x1 ≤ c.xMax) ∧ (0 ≤ x2 ∧ x2 ≤ c.xMax)

/-- V-RANGE: the six ways to be out of range, each by one. -/
theorem witness_SpanOutOfRangeIsCounted :
    (spanGives refState.cfg false false false 0x2B#8 0x29#8 0x0A#8 (-1) 0 2 ∧ ¬ inRange refState.cfg (-1) 0 2) ∧
    (spanGives refState.cfg false false true 0x2B#8 0x29#8 0x2E#8 290 0 2 ∧ ¬ inRange refState.cfg 290 0 2) ∧
    (spanGives refState.cfg false false false 0x2B#8 0x28#8 0x0B#8 0 (-1) 2 ∧ ¬ inRange refState.cfg 0 (-1) 2) ∧
    (spanGives refState.cfg true false false 0x29#8 0x8F#8 0x0B#8 0 357 0 ∧ ¬ inRange refState.cfg 0 357 0) ∧
    (spanGives refState.cfg false false false 0x28#8 0x29#8 0x0B#8 0 0 (-1) ∧ ¬ inRange refState.cfg 0 0 (-1)) ∧
    (spanGives refState.cfg false true false 0x8F#8 0x29#8 0x0B#8 0 0 357 ∧ ¬ inRange refState.cfg 0 0 357) := by
  decide

/-- V-RANGE: the valid corners. -/
theorem witness_SpanInRangeIsAccepted :
    (spanGives refState.cfg false false false 0x2B#8 0x29#8 0x0B#8 0 0 2 ∧ inRange refState.cfg 0 0 2) ∧
    (spanGives refState.cfg false false true 0x2B#8 0x29#8 0x2D#8 289 0 2 ∧ inRange refState.cfg 289 0 2) ∧
    (spanGives refState.cfg true true false 0x8E#8 0x8E#8 0x0B#8 0 356 356 ∧ inRange refState.cfg 0 356 356) := by
  decide

theorem witness_SpanCalibratesCoordinates : refState.cfg.hasReferenceGeometry := by decide

theorem witness_SpanValidityByBytes :
    refState.cfg.hasReferenceGeometry ∧
      ∃ t, exec (.span true true true 142#8 142#8 45#8) refState = .next t :=
  ⟨by decide, _, rfl⟩

theorem witness_AliasedEncodingsActAlike : refState.cfg.hasReferenceGeometry := by decide

theorem witness_RecordActionFrame :
    (∃ t, exec .term { scanState with taint := false } = .next t) ∧
      (∃ t, exec (.skipB4 0#3 0#8 0#8 0#8) { scanState with taint := true } = .next t ∧
        (Instr.skipB4 0#3 0#8 0#8 0#8).cls ≠ .term ∧ (Instr.skipB4 0#3 0#8 0#8 0#8).cls ≠ .span) ∧
      ∃ t, exec (.span false false false 2#8 0#8 1#8) scanState = .next t ∧
        (Instr.span false false false 2#8 0#8 1#8).cls ≠ .term :=
  ⟨⟨_, rfl⟩, ⟨_, rfl, by decide, by decide⟩, _, rfl, by decide⟩

/-- The window ends exactly at the buffer's end. -/
theorem witness_StepRunsDecodedRecord :
    srdNext scanState [] ∧ scanState.phase = .scan ∧ scanState.rp.toNat + 4 = scanState.len.toNat ∧
      scanState.rp.toNat + 3 < scanState.cfg.ibufSize ∧
      ((⟨1#8, 0#8, 2#8, 0#8⟩ : Record) =
        ⟨scanState.ibuf.read scanState.rp.toNat, scanState.ibuf.read (scanState.rp.toNat + 1),
          scanState.ibuf.read (scanState.rp.toNat + 2), scanState.ibuf.read (scanState.rp.toNat + 3)⟩) ∧
      decode [1#8, 0#8, 2#8, 0#8] = .ok (.span false false false 2#8 0#8 1#8, []) :=
  ⟨by decide, by decide, by decide, by decide, by decide, rfl⟩

/-- One byte is missing to a window. -/
theorem witness_ScanFinishesAtBufferEnd :
    let s : State := { scanState with len := 5#32 }
    srdNext s [] ∧ s.phase = .scan ∧ s.len.toNat + 1 = s.rp.toNat + 4 ∧ s.taint = false := by decide

theorem witness_TaintedFinishDrawsResults :
    let s : State := { endState with taint := true }
    srdNext s [] ∧ s.phase = .scan ∧ s.len.toNat < s.rp.toNat + 4 ∧ s.taint = true := by decide

/-- The last byte, and none left. -/
theorem witness_ClearStep :
    (srdNext clearState [] ∧ clearState.phase = .clear ∧ clearState.cp + 1 = clearState.cfg.fbSize) ∧
      (let s : State := { clearState with cp := 6 }
       srdNext s [] ∧ s.phase = .clear ∧ s.cfg.fbSize = s.cp) := by decide

/-- The last pixel of the last row, and none left. -/
theorem witness_PaintStep :
    (let s : State := { paintState with l := 1 }
     srdNext s [] ∧ s.phase = .paint ∧ (0 ≤ s.y ∧ s.y = s.cfg.yMax) ∧ (0 ≤ s.l ∧ s.x2 = s.cfg.xMax) ∧
       s.l + 1 = s.x2) ∧
      (let s : State := { paintState with l := 2 }
       srdNext s [] ∧ s.phase = .paint ∧ (0 ≤ s.y ∧ s.y ≤ s.cfg.yMax) ∧ (0 ≤ s.l ∧ s.x2 ≤ s.cfg.xMax) ∧
         s.x2 = s.l) := by decide

/-- V-PAINT: `x1 = x2`, and `x1 > x2`. -/
theorem witness_EmptySpanPaintsNothing :
    (spanValid refState.cfg (adjustedY refState.cfg 0x0B#8 false) (adjustedX refState.cfg 0x29#8 false)
        (adjustedX refState.cfg 0x29#8 false) = true ∧
      adjustedX refState.cfg 0x29#8 false ≤ adjustedX refState.cfg 0x29#8 false) ∧
    (spanValid refState.cfg (adjustedY refState.cfg 0x0B#8 false) (adjustedX refState.cfg 0x32#8 false)
        (adjustedX refState.cfg 0x2D#8 false) = true ∧
      adjustedX refState.cfg 0x2D#8 false < adjustedX refState.cfg 0x32#8 false) := by decide

theorem witness_IdleTakesNoStep : srdNext readyState [] ∧ readyState.phase = .idle := by decide

/-- The START that the host's turn is. -/
def startAct : HostAct := .write (.offset .reg 0x00) 32 1#32

/-- A buffer of exactly two bytes passes. -/
theorem witness_StartBeginsTheClear :
    let s := hostTurn (loaded tinyState [0x7F#8, 0x1C#8] 2#32) startAct
    hostNext s startAct [] ∧ (1#32).getLsbD 0 = true ∧ s.phase = .idle ∧ s.cfg.wf ∧ 2 = s.bufLen.toNat ∧
      s.ibuf.read 1 = 0x1C#8 := by decide

/-- A buffer of one byte, and one without the marker. -/
theorem witness_StartReportsUnknownMessage :
    (let s := hostTurn (loaded tinyState [0x1C#8] 1#32) startAct
     hostNext s startAct [] ∧ (1#32).getLsbD 0 = true ∧ s.phase = .idle ∧ s.cfg.wf ∧ s.bufLen.toNat < 2) ∧
      (let s := hostTurn (loaded tinyState [0x00#8, 0x1D#8] 2#32) startAct
       hostNext s startAct [] ∧ (1#32).getLsbD 0 = true ∧ s.phase = .idle ∧ s.cfg.wf ∧
         s.ibuf.read 1 ≠ 0x1C#8) := by decide

theorem witness_StartWhileBusyIsIgnored :
    let s := hostTurn scanState startAct
    hostNext s startAct [] ∧ s.phase ≠ .idle := by decide

theorem witness_ControlRegister :
    (hostNext (hostTurn scanState (.write (.offset .reg 0x00) 32 0xFFFFFFFE#32))
        (.write (.offset .reg 0x00) 32 0xFFFFFFFE#32) [] ∧ (0xFFFFFFFE#32).getLsbD 0 = false) ∧
      (hostNext (hostTurn readyState (.write (.offset .reg 0x00) 32 0xFFFFFFFF#32))
        (.write (.offset .reg 0x00) 32 0xFFFFFFFF#32) [] ∧ (0xFFFFFFFF#32).getLsbD 0 = true) ∧
      hostNext (hostTurn scanState (.read (.offset .reg 0x00) 32)) (.read (.offset .reg 0x00) 32) [] := by
  decide

theorem witness_StatusRegister :
    hostNext (hostTurn scanState (.read (.offset .reg 0x04) 32)) (.read (.offset .reg 0x04) 32) [] ∧
      hostNext (hostTurn scanState (.write (.offset .reg 0x04) 32 0xF#32))
        (.write (.offset .reg 0x04) 32 0xF#32) [] := by decide

theorem witness_BufLenRegister :
    scanState.cfg.wf ∧
      hostNext (hostTurn scanState (.write (.offset .reg 0x08) 32 17#32))
        (.write (.offset .reg 0x08) 32 17#32) [] ∧
      hostNext (hostTurn scanState (.read (.offset .reg 0x08) 32)) (.read (.offset .reg 0x08) 32) [] := by
  decide

theorem witness_CountRegisters :
    (hostNext (hostTurn readyState (.read (.offset .reg 0x0C) 32)) (.read (.offset .reg 0x0C) 32) [] ∧
        readyState.status.busy = false) ∧
      (hostNext (hostTurn readyState (.read (.offset .reg 0x10) 32)) (.read (.offset .reg 0x10) 32) [] ∧
        readyState.status.busy = false) ∧
      (hostNext (hostTurn scanState (.read (.offset .reg 0x0C) 32)) (.read (.offset .reg 0x0C) 32) [] ∧
        scanState.status.busy = true) ∧
      (hostNext (hostTurn scanState (.write (.offset .reg 0x10) 32 1#32))
        (.write (.offset .reg 0x10) 32 1#32) []) := by decide

/-- The last byte of FB. -/
theorem witness_FrameBufferHostAccess :
    5 + 1 = scanState.cfg.fbSize ∧
      (hostNext (hostTurn scanState (.read (.offset .fb 5) 8)) (.read (.offset .fb 5) 8) [] ∧
        scanState.status.busy = true) ∧
      (hostNext (hostTurn readyState (.read (.offset .fb 5) 8)) (.read (.offset .fb 5) 8) [] ∧
        readyState.status.busy = false) ∧
      hostNext (hostTurn scanState (.write (.offset .fb 5) 8 7#32)) (.write (.offset .fb 5) 8 7#32) [] := by
  decide

/-- The last byte of IBUF. -/
theorem witness_InputBufferHostAccess :
    15 + 1 = scanState.cfg.ibufSize ∧
      hostNext (hostTurn scanState (.read (.offset .ibuf 15) 8)) (.read (.offset .ibuf 15) 8) [] ∧
      hostNext (hostTurn scanState (.write (.offset .ibuf 15) 8 7#32))
        (.write (.offset .ibuf 15) 8 7#32) [] := by decide

theorem witness_OnlyUndefinedAccessesAreRefused :
    scanState.cfg.wf ∧ undefinedAccessNext (hostTurn scanState (.read (.offset .reg 4) 8)) := by
  refine ⟨by decide, .read (.offset .reg 4) 8, [], rfl, ?_⟩
  rintro space off h
  simp only [HostAct.place, resolve, Option.some.injEq, Prod.mk.injEq] at h
  obtain ⟨rfl, rfl⟩ := h
  decide

/-- The first and the last address of each window. -/
theorem witness_AddressMap :
    tinyState.cfg.wf ∧ locate tinyState.cfg 0 = some (.reg, 0) ∧ locate tinyState.cfg 0x13 = some (.reg, 0x13) ∧
      locate tinyState.cfg 0x100 = some (.ibuf, 0) ∧ locate tinyState.cfg 0x10F = some (.ibuf, 15) ∧
      locate tinyState.cfg 0x200 = some (.fb, 0) ∧ locate tinyState.cfg 0x205 = some (.fb, 5) := by decide

theorem witness_PlatformReset :
    ({ scanState with script := [.reset] } : State).script = .reset :: [] := by decide

theorem witness_ResetMeetsTheInvariants :
    tinyConfig.wf ∧ Config.reference.wf ∧ Config.reference.yOff ≤ 510 ∧ Config.reference.xOff ≤ 510 := by
  decide

theorem witness_StepKeepsInvariant : ∃ t, Inv scanState ∧ step scanState = .next t :=
  ⟨_, scanState_inv, rfl⟩

theorem witness_StepKeepsFrameInvariant :
    ∃ t, Inv clearState ∧ FrameInv clearState ∧ step clearState = .next t :=
  ⟨_, clearState_inv, clearState_frameInv, rfl⟩

theorem witness_StepKeepsCoordinateRanges :
    refState.cfg.yOff ≤ 510 ∧ refState.cfg.xOff ≤ 510 ∧ CoordInv refState ∧ ∃ t, step refState = .next t :=
  ⟨by decide, by decide, by decide, _, rfl⟩

theorem witness_StepNeverFaults : Inv paintState ∧ ¬ undefinedAccessNext paintState := by
  refine ⟨paintState_inv, ?_⟩
  rintro ⟨act, rest, h, -⟩
  cases h

theorem witness_FinishedFrameIsBinary :
    Inv endState ∧ FrameInv endState ∧ endState.phase ≠ .idle ∧ endState.taint = false ∧
      ¬ resetNext endState ∧ ∃ t, step endState = .next t ∧ t.phase = .idle :=
  ⟨endState_inv, endState_frameInv, by decide, by decide, not_resetNext rfl, _, rfl, by decide⟩

theorem witness_SrdNeverWritesItsInput : srdNext paintState [] ∧ ∃ t, step paintState = .next t :=
  ⟨by decide, _, rfl⟩

/-- Each of the four ways: no free value, a read while BUSY, a finish with TAINT set, a reset. -/
theorem witness_ConfigurationIsFixed :
    (∃ t, step scanState = .next t ∧ t.draws = scanState.draws) ∧
      (∃ s t, step s = .next t ∧ s.status.busy = true ∧ t.draws = s.draws + 1) ∧
      (∃ s t, step s = .next t ∧ finishNext s ∧ s.taint = true ∧ t.draws = s.draws + 5) ∧
      ∃ s t, step s = .next t ∧ resetNext s ∧ t.draws = s.draws + 2 :=
  ⟨⟨_, rfl, rfl⟩,
    ⟨hostTurn scanState (.read (.offset .reg 0x0C) 32), _, rfl, rfl, rfl⟩,
    ⟨{ endState with taint := true }, _, rfl, ⟨⟨[], by decide⟩, rfl, .inl (by decide)⟩, rfl, rfl⟩,
    { scanState with script := [.reset] }, _, rfl, ⟨[], rfl⟩, rfl⟩

theorem witness_ReadPointerMoves :
    (∃ t, step scanState = .next t ∧ ¬ resetNext scanState ∧ t.rp ≠ scanState.rp) ∧
      ∃ s t, step s = .next t ∧ ¬ resetNext s ∧ s.phase = .clear ∧ t.rp ≠ s.rp :=
  ⟨⟨_, rfl, not_resetNext rfl, by decide⟩,
    { clearState with cp := 6 }, _, rfl, not_resetNext rfl, rfl, by decide⟩

/-- The host's CTRL write is a START. -/
theorem startNext_hostTurn (s : State) : startNext (hostTurn s startAct) :=
  ⟨startAct, [], rfl, rfl, rfl, by decide⟩

/-- DONE set at the buffer end, at a TERM and at a bad marker, and cleared by a START by platform address. -/
theorem witness_DoneChangesOnlyAtFinishOrStart :
    (∃ t, step endState = .next t ∧ ¬ resetNext endState ∧ endState.status.done = false ∧
        t.status.done = true ∧ finishNext endState) ∧
      (∃ s t, step s = .next t ∧ ¬ resetNext s ∧ s.status.done = false ∧ t.status.done = true ∧
        finishNext s ∧ windowNext s = .term) ∧
      (∃ s t, step s = .next t ∧ ¬ resetNext s ∧ s.status.done = false ∧ t.status.done = true ∧
        startNext s ∧ s.phase = .idle) ∧
      ∃ s t, step s = .next t ∧ ¬ resetNext s ∧ s.status.done = true ∧ t.status.done = false ∧
        startNext s :=
  ⟨⟨_, rfl, not_resetNext rfl, rfl, rfl, ⟨[], by decide⟩, rfl, .inl (by decide)⟩,
    ⟨scanning tinyState [0x00#8, 0x1C#8, 0#8, 0#8, 0#8, 0#8] 2#32 6#32, _, rfl, not_resetNext rfl, rfl, rfl,
      ⟨⟨[], by decide⟩, rfl, .inr (by decide)⟩, by decide⟩,
    ⟨hostTurn (loaded tinyState [0x00#8, 0x1D#8] 2#32) startAct, _, rfl, not_resetNext_hostTurn _ _, rfl, rfl,
      startNext_hostTurn _, rfl⟩,
    hostTurn { readyState with status := doneStatus } (.write (.platform 0) 32 1#32), _, rfl,
      not_resetNext_hostTurn _ _, rfl, rfl, _, [], rfl, by decide, rfl, by decide⟩

/-- A decode with TAINT set, whose counts are not the free values that its finish will take. -/
def taintedEnd : State :=
  { endState with
    taint := true
    segCount := Config.freeWord (endState.draws + 1) + 1#32
    malCount := Config.freeWord (endState.draws + 2) + 1#32 }

theorem word_ne_succ (w : Word) : w ≠ w + 1#32 := by
  intro h
  have := congrArg BitVec.toNat h
  rw [BitVec.toNat_add] at this
  have hw := w.isLt
  simp only [BitVec.toNat_ofNat] at this
  omega

/-- A count changed by a START, by an accepted and a rejected SPAN, and by a finish with TAINT set. -/
theorem witness_CountsChangeOnlyByRecords :
    (∃ s t, step s = .next t ∧ ¬ resetNext s ∧ t.segCount ≠ s.segCount ∧ t.malCount ≠ s.malCount ∧
        startNext s ∧ s.phase = .idle) ∧
      (∃ t, step scanState = .next t ∧ ¬ resetNext scanState ∧ t.segCount ≠ scanState.segCount) ∧
      (∃ s t, step s = .next t ∧ ¬ resetNext s ∧ t.malCount ≠ s.malCount ∧ t.phase = .scan) ∧
      ∃ t, step taintedEnd = .next t ∧ ¬ resetNext taintedEnd ∧ t.segCount ≠ taintedEnd.segCount ∧
        t.malCount ≠ taintedEnd.malCount ∧ taintedEnd.taint = true :=
  ⟨⟨hostTurn { readyState with segCount := 3#32, malCount := 2#32 } startAct, _, rfl,
      not_resetNext_hostTurn _ _, by decide, by decide, startNext_hostTurn _, rfl⟩,
    ⟨_, rfl, not_resetNext rfl, by decide⟩,
    ⟨scanning tinyState [0x00#8, 0x1C#8, 0x02#8, 0x00#8, 0x02#8, 0x00#8] 2#32 6#32, _, rfl,
      not_resetNext rfl, by decide, rfl⟩,
    _, rfl, not_resetNext rfl, word_ne_succ _, word_ne_succ _, rfl⟩

theorem witness_CountsCannotWrap : Inv paintState ∧ paintState.status.busy = true :=
  ⟨paintState_inv, by decide⟩

theorem witness_HostReadsHaveNoSideEffects :
    ∃ t, hostNext (hostTurn scanState (.read (.offset .fb 0) 8)) (.read (.offset .fb 0) 8) [] ∧
      step (hostTurn scanState (.read (.offset .fb 0) 8)) = .next t := ⟨_, by decide, rfl⟩

theorem witness_DecodeMatchesReference : Inv readyState ∧ readyState.phase = .idle :=
  ⟨readyState_inv, by decide⟩

theorem witness_EveryStepKeepsTheOutcome :
    Inv scanState ∧ FrameInv scanState ∧ scanState.phase ≠ .idle ∧ ¬ resetNext scanState ∧
      ∃ t, step scanState = .next t ∧ t.taint = false :=
  ⟨scanState_inv, scanState_frameInv, by decide, not_resetNext rfl, _, rfl, by decide⟩

theorem witness_StartFixesTheOutcome :
    Inv (hostTurn readyState startAct) ∧ (hostTurn readyState startAct).phase = .idle ∧
      hostNext (hostTurn readyState startAct) startAct [] ∧
      ∃ t, step (hostTurn readyState startAct) = .next t :=
  ⟨readyState_inv.withScript _, by decide, by decide, _, rfl⟩

/-- The same buffer over two frames, and a bad buffer over one. -/
theorem witness_DecodeIsIdempotent :
    let s : State := { readyState with fb := readyState.fb.writeAll 0 [0x55#8] }
    Inv readyState ∧ Inv s ∧ readyState.phase = .idle ∧ s.phase = .idle ∧ readyState.cfg = s.cfg ∧
      readyState.bufLen = s.bufLen ∧
      (∀ a, a < readyState.cfg.ibufSize → readyState.ibuf.read a = s.ibuf.read a) ∧
      (2 ≤ readyState.bufLen.toNat ∧ readyState.ibuf.read 1 = 0x1C#8) ∧
      Inv { readyState with bufLen := 1#32 } ∧
      ∀ a, a < readyState.cfg.fbSize → readyState.fb.read a = readyState.fb.read a :=
  ⟨readyState_inv, by constructor <;> decide, rfl, rfl, rfl, rfl, fun _ _ => rfl, by decide,
    by constructor <;> decide, fun _ _ => rfl⟩

/-- Two buffers that differ at BUF_LEN and above. -/
theorem witness_BytesBeyondLengthDoNotMatter :
    let s := loaded tinyState (spanBuffer ++ [0x99#8]) 6#32
    Inv readyState ∧ Inv s ∧ readyState.phase = .idle ∧ s.phase = .idle ∧ readyState.cfg = s.cfg ∧
      readyState.bufLen = s.bufLen ∧
      (∀ a, a < readyState.bufLen.toNat → readyState.ibuf.read a = s.ibuf.read a) ∧
      ∀ a, a < readyState.cfg.fbSize → readyState.fb.read a = s.fb.read a :=
  ⟨readyState_inv, by constructor <;> decide, rfl, rfl, rfl, rfl, by decide, fun _ _ => rfl⟩

theorem witness_TwoByteBufferClearsTheFrame :
    let s := loaded tinyState [0x00#8, 0x1C#8] 2#32
    Inv s ∧ s.phase = .idle ∧ s.bufLen = 2#32 ∧ s.ibuf.read 1 = 0x1C#8 :=
  ⟨by constructor <;> decide, rfl, rfl, by decide⟩

theorem witness_TermFirstLeavesTheFrameClear :
    let s := loaded tinyState [0x00#8, 0x1C#8, 0#8, 0#8, 0#8, 0#8] 6#32
    Inv s ∧ s.phase = .idle ∧ 6 ≤ s.bufLen.toNat ∧ s.ibuf.read 1 = 0x1C#8 ∧
      ∀ k, k < 4 → s.ibuf.read (2 + k) = 0#8 :=
  ⟨by constructor <;> decide, rfl, by decide, by decide, by decide⟩

theorem witness_SingleRecordDecode :
    Inv readyState ∧ readyState.phase = .idle ∧ readyState.bufLen = 6#32 ∧
      readyState.ibuf.read 1 = 0x1C#8 ∧
      decode [readyState.ibuf.read 2, readyState.ibuf.read 3, readyState.ibuf.read 4, readyState.ibuf.read 5] =
        .ok (.span false false false 2#8 0#8 1#8, []) ∧
      (1 = adjustedY readyState.cfg 1#8 false ∧ 0 = adjustedX readyState.cfg 0#8 false ∧
        2 = adjustedX readyState.cfg 2#8 false) ∧
      spanValid readyState.cfg 1 0 2 = true :=
  ⟨readyState_inv, rfl, rfl, by decide, rfl, by decide, by decide⟩

theorem witness_WindowAccounting :
    Inv readyState ∧ readyState.phase = .idle ∧ 2 ≤ readyState.bufLen.toNat ∧
      readyState.ibuf.read 1 = 0x1C#8 := ⟨readyState_inv, rfl, by decide, by decide⟩

theorem witness_FrameIsUnionOfSpans :
    Inv readyState ∧ readyState.phase = .idle ∧ 2 ≤ readyState.bufLen.toNat ∧
      readyState.ibuf.read 1 = 0x1C#8 ∧ (windowsRead readyState.ibuf.read 6).length = 1 :=
  ⟨readyState_inv, rfl, by decide, by decide, by decide⟩

end Sys2Proof.Tests
end

section
/-! The family of spec/00_scope.md: the machine never faults and is stuck only at an undefined host access
(R16, R52, R54, R112), and the two counts cannot wrap (R11, R116). -/

namespace Sys2Proof.Machine

/-! ### The SRD's steps go on -/

/-- R54: a CLEAR step writes inside FB only, whatever `s.CP` holds. -/
theorem clearStep_next (s : State) : ∃ t, clearStep s = .next t := by
  unfold clearStep
  split
  · rename_i hcp
    rw [fbMemWrite_of_range _ (Int.natCast_nonneg _) (Int.ofNat_lt.2 hcp)]
    exact ⟨_, rfl⟩
  · exact ⟨_, rfl⟩

/-- R52: a SCAN step reads below `s.LEN` only, so inside IBUF where `s.LEN` is legal. -/
theorem scanStep_next {s : State} (hlen : s.len.toNat ≤ s.cfg.ibufSize) : ∃ t, scanStep s = .next t := by
  unfold scanStep
  split
  · exact ⟨_, rfl⟩
  · rename_i hend
    have hwindow : s.rp.toNat + 4 ≤ s.len.toNat := bufferEnd_eq_false.1 (Bool.not_eq_true _ ▸ hend)
    rw [readWindow_of_lt (by omega)]
    exact exec_next _ _

/-- R54: a PAINT step of a valid span writes a pixel of FB. -/
theorem paintStep_next {s : State} (hvalid : spanValid s.cfg s.y s.x1 s.x2 = true) (hl : 0 ≤ s.l) :
    ∃ t, paintStep s = .next t := by
  obtain ⟨hy, -, -, hx2⟩ := (spanValid_iff ..).1 hvalid
  unfold paintStep
  split
  · obtain ⟨hlow, hhigh⟩ := pixelOffset_in_fb s.cfg hy ⟨hl, show s.l ≤ s.cfg.xMax by omega⟩
    rw [fbMemWrite_of_range _ hlow hhigh]
    exact ⟨_, rfl⟩
  · exact ⟨_, rfl⟩

theorem srdStep_next {s : State} (h : Inv s) : ∃ t, srdStep s = .next t := by
  unfold srdStep
  split
  case h_1 => exact ⟨s, rfl⟩
  case h_2 => exact clearStep_next s
  case h_3 => exact scanStep_next h.lenLegal
  case h_4 hp => exact paintStep_next (h.painting hp).1 h.lRange.1

/-! ### Host accesses that the spec defines go on, and the others are refused -/

/-- R102: the header check reads byte 1 of a buffer that has it. -/
theorem headerCheck_next {s : State} (hlen : s.len.toNat ≤ s.cfg.ibufSize) :
    ∃ t, headerCheck s = .next t := by
  unfold headerCheck
  split
  · exact ⟨_, rfl⟩
  · rename_i hhdr
    have hbyte : 1 < s.cfg.ibufSize := by unfold HDR_LEN at hhdr; omega
    rw [ibufMemRead_of_lt hbyte, orFault_ok]
    split <;> exact ⟨_, rfl⟩

/-- R100, R101: a START goes on, since `s.LEN` is latched from a legal BUF_LEN. -/
theorem startCommand_next {s : State} (hbuf : s.bufLen.toNat ≤ s.cfg.ibufSize) :
    ∃ t, startCommand s = .next t := by
  unfold startCommand
  split
  · exact headerCheck_next hbuf
  · exact ⟨s, rfl⟩

theorem writeReg_next {s : State} (hbuf : s.bufLen.toNat ≤ s.cfg.ibufSize) (r : Reg) (v : Word) :
    ∃ t, writeReg r v s = .next t := by
  cases r with
  | ctrl =>
    simp only [writeReg]
    split
    · exact startCommand_next hbuf
    · exact ⟨s, rfl⟩
  | status => exact ⟨_, rfl⟩
  | bufLen => exact ⟨_, rfl⟩
  | segCount => exact ⟨_, rfl⟩
  | malCount => exact ⟨_, rfl⟩

/-- R22: the offsets of REG that name no register. -/
theorem regOfOffset_eq_none_iff {off : Nat} :
    regOfOffset off = none ↔ off ∉ [0x00, 0x04, 0x08, 0x0C, 0x10] := by
  unfold regOfOffset
  split_ifs <;> simp_all

theorem regPort_of_defined {c : Config} {off width : Nat} (h : accessDefined c .reg off width)
    (k : Reg → Result) : ∃ r, regPort off width k = k r := by
  obtain ⟨rfl, hoff⟩ := h
  have haligned : off % 4 = 0 := by
    simp only [List.mem_cons, List.not_mem_nil, or_false] at hoff
    omega
  obtain ⟨r, hr⟩ := Option.ne_none_iff_exists'.1 (mt regOfOffset_eq_none_iff.1 (not_not.2 hoff))
  exact ⟨r, by simp [regPort, haligned, hr]⟩

theorem regPort_of_undefined {c : Config} {off width : Nat} (h : ¬ accessDefined c .reg off width)
    (k : Reg → Result) : ∃ r, regPort off width k = .refused r := by
  unfold regPort
  split
  · exact ⟨_, rfl⟩
  · rename_i hwidth
    have hnone : regOfOffset off = none :=
      regOfOffset_eq_none_iff.2 fun hoff => h ⟨not_not.1 hwidth, hoff⟩
    rw [hnone]
    split <;> exact ⟨_, rfl⟩

theorem bytePort_of_defined {size off width : Nat} (h : width = 8 ∧ off < size) (k : Result) :
    bytePort size off width k = k := by
  simp [bytePort, h.1, h.2]

theorem bytePort_of_undefined {size off width : Nat} (h : ¬ (width = 8 ∧ off < size)) (k : Result) :
    ∃ r, bytePort size off width k = .refused r := by
  unfold bytePort
  split
  · exact ⟨_, rfl⟩
  · rename_i hwidth
    rw [if_neg fun hoff => h ⟨not_not.1 hwidth, hoff⟩]
    exact ⟨_, rfl⟩

theorem hostRead_of_defined {space : Space} {off width : Nat} {s : State}
    (h : accessDefined s.cfg space off width) : ∃ t, hostRead space off width s = .next t := by
  cases space with
  | reg =>
    obtain ⟨r, hr⟩ := regPort_of_defined h fun r => .next (readReg r s)
    exact ⟨_, hr⟩
  | ibuf => exact ⟨_, bytePort_of_defined h _⟩
  | fb => exact ⟨_, bytePort_of_defined h _⟩

theorem hostWrite_of_defined {space : Space} {off width : Nat} {s : State}
    (hbuf : s.bufLen.toNat ≤ s.cfg.ibufSize) (h : accessDefined s.cfg space off width) (v : Word) :
    ∃ t, hostWrite space off width v s = .next t := by
  cases space with
  | reg =>
    obtain ⟨r, hr⟩ := regPort_of_defined h fun r => writeReg r v s
    obtain ⟨t, ht⟩ := writeReg_next hbuf r v
    exact ⟨t, hr.trans ht⟩
  | ibuf => exact ⟨_, bytePort_of_defined h _⟩
  | fb => exact ⟨_, bytePort_of_defined h _⟩

theorem hostRead_of_undefined {space : Space} {off width : Nat} {s : State}
    (h : ¬ accessDefined s.cfg space off width) : ∃ r, hostRead space off width s = .refused r := by
  cases space with
  | reg => exact regPort_of_undefined h _
  | ibuf => exact bytePort_of_undefined h _
  | fb => exact bytePort_of_undefined h _

theorem hostWrite_of_undefined {space : Space} {off width : Nat} {s : State}
    (h : ¬ accessDefined s.cfg space off width) (v : Word) :
    ∃ r, hostWrite space off width v s = .refused r := by
  cases space with
  | reg => exact regPort_of_undefined h _
  | ibuf => exact bytePort_of_undefined h _
  | fb => exact bytePort_of_undefined h _

theorem hostStep_read {place : HostAddr} {s : State} {space : Space} {off : Nat}
    (hplace : resolve s.cfg place = some (space, off)) (width : Nat) :
    hostStep (.read place width) s = hostRead space off width s := by
  simp only [hostStep, hplace]

theorem hostStep_write {place : HostAddr} {s : State} {space : Space} {off : Nat}
    (hplace : resolve s.cfg place = some (space, off)) (width : Nat) (v : Word) :
    hostStep (.write place width v) s = hostWrite space off width v s := by
  simp only [hostStep, hplace]

theorem hostStep_unmapped {act : HostAct} {s : State} (hplace : resolve s.cfg act.place.1 = none) :
    hostStep act s = .refused .unmappedAddress := by
  cases act <;> simp_all only [hostStep, HostAct.place]

theorem hostStep_of_defined {act : HostAct} {s : State} {space : Space} {off : Nat}
    (hbuf : s.bufLen.toNat ≤ s.cfg.ibufSize) (hplace : resolve s.cfg act.place.1 = some (space, off))
    (h : accessDefined s.cfg space off act.place.2) : ∃ t, hostStep act s = .next t := by
  cases act with
  | read place width => rw [hostStep_read (place := place) hplace]; exact hostRead_of_defined h
  | write place width v => rw [hostStep_write (place := place) hplace]; exact hostWrite_of_defined hbuf h v

theorem hostStep_of_undefined {act : HostAct} {s : State}
    (h : ∀ space off, resolve s.cfg act.place.1 = some (space, off) →
      ¬ accessDefined s.cfg space off act.place.2) : ∃ r, hostStep act s = .refused r := by
  cases hplace : resolve s.cfg act.place.1 with
  | none => exact ⟨_, hostStep_unmapped hplace⟩
  | some target =>
    obtain ⟨space, off⟩ := target
    have hundef := h space off hplace
    cases act with
    | read place width => rw [hostStep_read (place := place) hplace]; exact hostRead_of_undefined hundef
    | write place width v =>
      rw [hostStep_write (place := place) hplace]
      exact hostWrite_of_undefined hundef v

/-! ### A step goes on or is refused -/

/-- R16, R56: an undefined host access is refused, in every state. -/
theorem step_of_undefinedAccessNext {s : State} (h : undefinedAccessNext s) :
    ∃ r, step s = .refused r := by
  obtain ⟨act, rest, hscript, hact⟩ := h
  rw [step_of_hostNext hscript]
  exact hostStep_of_undefined hact

/-- From the invariant every other turn has a next state, whoever takes it. -/
theorem step_of_not_undefinedAccessNext {s : State} (hinv : Inv s) (h : ¬ undefinedAccessNext s) :
    ∃ t, step s = .next t := by
  match hscript : s.script with
  | [] =>
    rw [step_of_srdNext (.inr ⟨hscript, rfl⟩)]
    exact srdStep_next (hinv.withScript [])
  | .srd :: rest =>
    rw [step_of_srdNext (.inl hscript)]
    exact srdStep_next (hinv.withScript rest)
  | .host act :: rest =>
    rw [step_of_hostNext hscript]
    have hdefined : ∃ space off, resolve s.cfg act.place.1 = some (space, off) ∧
        accessDefined s.cfg space off act.place.2 := by
      by_contra hnone
      exact h ⟨act, rest, hscript, fun space off hplace hd => hnone ⟨space, off, hplace, hd⟩⟩
    obtain ⟨space, off, hplace, hd⟩ := hdefined
    exact hostStep_of_defined (s := { s with script := rest }) hinv.bufLenLegal hplace hd
  | .reset :: rest =>
    exact ⟨platformReset { s with script := rest }, by simp only [step, takeTurn, hscript]⟩

/-- Settles O42: by whether the next turn is an undefined host access. Such a turn is refused; every other
has a next state, since the invariant keeps the SRD's accesses inside IBUF and FB. -/
theorem stepNeverFaults : Obligations.StepNeverFaults := by
  intro s hinv
  refine ⟨fun f hfault => ?_, step_of_not_undefinedAccessNext hinv⟩
  by_cases h : undefinedAccessNext s
  · obtain ⟨r, hr⟩ := step_of_undefinedAccessNext h
    exact nomatch hr.symm.trans hfault
  · obtain ⟨t, ht⟩ := step_of_not_undefinedAccessNext hinv h
    exact nomatch ht.symm.trans hfault

/-! ### The counts -/

/-- R116: while BUSY no more records have been counted than IBUF has windows. In CLEAR none has been
counted; later at most the windows below `s.RP`, which does not pass `s.LEN`. -/
theorem counts_le_windows {s : State} (h : Inv s) (hbusy : s.status.busy = true) :
    s.segCount.toNat + s.malCount.toNat ≤ (s.cfg.ibufSize - 2) / 4 := by
  have hdecoding : s.decoding →
      s.segCount.toNat + s.malCount.toNat ≤ (s.cfg.ibufSize - 2) / 4 := fun hd => by
    have hcounted := h.counted hd
    obtain ⟨-, hrp⟩ := h.rpAligned hd
    have hlen := h.lenLegal
    omega
  cases hp : s.phase with
  | idle => exact absurd hp (h.busyIff.1 hbusy)
  | clear =>
    obtain ⟨-, hseg, hmal⟩ := h.clearing hp
    simp [hseg, hmal]
  | scan => exact hdecoding (.inl hp)
  | paint => exact hdecoding (.inr hp)

/-- Settles O49: from the bound by windows, and R10's bound of `IBUF_SIZE`. -/
theorem countsCannotWrap : Obligations.CountsCannotWrap := by
  intro s h hbusy
  obtain ⟨⟨-, hsize⟩, -⟩ := h.cfgWf
  exact ⟨counts_le_windows h hbusy, by omega⟩

end Sys2Proof.Machine
end

section
/-! The family of spec/10_state.md, its ground: every step that goes on as one of a list of moves, each with
the condition on the state under which the machine takes it. The later parts split on the moves. -/

namespace Sys2Proof.Machine

/-! ### The moves of the SRD -/

/-- A SCAN step reads a window here: four bytes are left below `s.LEN` (R107), and IBUF has them (R52). -/
structure WindowRead (s : State) : Prop where
  scanning : s.phase = .scan
  inLength : s.rp.toNat + 4 ≤ s.len.toNat
  inSpace : s.rp.toNat + 3 < s.cfg.ibufSize

/-- The state on which a window's class action runs: the window latched, `s.RP` past it (R107, R130). -/
abbrev State.windowLatched (s : State) : State := latchWindow (windowAt s.ibuf.read s.rp.toNat) s

/-- The state that TERM's action finishes: the window latched and TERM_SEEN set (R131). -/
abbrev State.termLatched (s : State) : State :=
  { s.windowLatched with status := { s.status with termSeen := true } }

/-- The window at `s.RP` is a SPAN with these adjusted coordinates (R150). -/
def SpanAt (s : State) (y x1 x2 : Int) : Prop :=
  ∃ ex1 ex2 ey x2b x1b yb, windowNext s = .span ex1 ex2 ey x2b x1b yb ∧
    y = adjustedY s.cfg yb ey ∧ x1 = adjustedX s.cfg x1b ex1 ∧ x2 = adjustedX s.cfg x2b ex2

/-- One step of the SRD (R32), a constructor for each thing it can do. -/
inductive SrdMove (s : State) : State → Prop
  /-- R195. -/
  | idle (hphase : s.phase = .idle) : SrdMove s s
  /-- R105. -/
  | clear (hphase : s.phase = .clear) (hcp : s.cp < s.cfg.fbSize) :
      SrdMove s { s with fb := s.fb.write s.cp PIX_OFF, cp := s.cp + 1 }
  /-- R106. -/
  | clearEnd (hphase : s.phase = .clear) (hcp : s.cfg.fbSize ≤ s.cp) : SrdMove s (scanBegin s)
  /-- R107, fewer than four bytes left. -/
  | bufferEnd (hphase : s.phase = .scan) (hend : s.len.toNat < s.rp.toNat + 4) : SrdMove s (finish s)
  /-- R131. -/
  | term (hread : WindowRead s) (hterm : windowNext s = .term) : SrdMove s (finish s.termLatched)
  /-- R134. -/
  | skip (hread : WindowRead s) (hskip : (windowNext s).cls = .skip) : SrdMove s s.windowLatched
  /-- R157. -/
  | accept {y x1 x2 : Int} (hread : WindowRead s) (hspan : SpanAt s y x1 x2)
      (hvalid : spanValid s.cfg y x1 x2 = true) :
      SrdMove s (acceptSpan (setCoords y x1 x2 s.windowLatched))
  /-- R156. -/
  | reject {y x1 x2 : Int} (hread : WindowRead s) (hspan : SpanAt s y x1 x2)
      (hvalid : spanValid s.cfg y x1 x2 = false) :
      SrdMove s (rejectSpan (setCoords y x1 x2 s.windowLatched))
  /-- R158, a column of the span. -/
  | paint (hphase : s.phase = .paint) (hl : s.l < s.x2) (hlow : 0 ≤ pixelOffset s.cfg s.y s.l)
      (hhigh : pixelOffset s.cfg s.y s.l < (s.cfg.fbSize : Int)) :
      SrdMove s { s with fb := s.fb.write (pixelOffset s.cfg s.y s.l).toNat PIX_ON, l := s.l + 1 }
  /-- R158, the end of the span. -/
  | paintEnd (hphase : s.phase = .paint) (hl : s.x2 ≤ s.l) : SrdMove s { s with phase := .scan }

theorem cls_eq_term_iff {i : Instr} : i.cls = .term ↔ i = .term := by
  cases i <;> simp [Instr.cls]

/-- The class action of the window read is one of the moves of SCAN. -/
theorem srdMove_of_exec {s t : State} (hread : WindowRead s)
    (h : exec (windowNext s) s.windowLatched = .next t) : SrdMove s t := by
  rcases exec_cases h with ⟨hterm, rfl⟩ | ⟨hskip, rfl⟩ | ⟨ex1, ex2, ey, x2b, x1b, yb, hspan, rfl⟩
  · exact .term hread (cls_eq_term_iff.1 hterm)
  · exact .skip hread hskip
  · have hat : SpanAt s _ _ _ := ⟨ex1, ex2, ey, x2b, x1b, yb, hspan, rfl, rfl, rfl⟩
    rcases checkSpan_cases (setCoords (adjustedY s.cfg yb ey) (adjustedX s.cfg x1b ex1)
      (adjustedX s.cfg x2b ex2) s.windowLatched) with ⟨hvalid, ht⟩ | ⟨hvalid, ht⟩
    · exact ht ▸ .accept hread hat hvalid
    · exact ht ▸ .reject hread hat hvalid

theorem srdMove_of_srdStep {s t : State} (h : srdStep s = .next t) : SrdMove s t := by
  rcases srdStep_cases h with ⟨hp, rfl⟩ | ⟨hp, hcp, rfl⟩ | ⟨hp, hcp, rfl⟩ | ⟨hp, hend, rfl⟩ |
    ⟨hp, hend, r, hr, hexec⟩ | ⟨hp, hl, hlow, hhigh, rfl⟩ | ⟨hp, hl, rfl⟩
  · exact .idle hp
  · exact .clear hp hcp
  · exact .clearEnd hp hcp
  · exact .bufferEnd hp (bufferEnd_eq_true.1 hend)
  · obtain ⟨hspace, rfl⟩ := readWindow_ok hr
    exact srdMove_of_exec ⟨hp, bufferEnd_eq_false.1 hend, hspace⟩ hexec
  · exact .paint hp hl hlow hhigh
  · exact .paintEnd hp hl

theorem srdStep_of_clear {s : State} (h : s.phase = .clear) : srdStep s = clearStep s := by
  simp only [srdStep, h]

theorem srdStep_of_scan {s : State} (h : s.phase = .scan) : srdStep s = scanStep s := by
  simp only [srdStep, h]

theorem srdStep_of_paint {s : State} (h : s.phase = .paint) : srdStep s = paintStep s := by
  simp only [srdStep, h]

/-- Where a window is read, the SRD's step is the class action of that window. -/
theorem srdStep_of_windowRead {s : State} (h : WindowRead s) :
    srdStep s = exec (windowNext s) s.windowLatched := by
  rw [srdStep_of_scan h.scanning]
  simp only [scanStep, bufferEnd_false h.inLength, readWindow_of_lt h.inSpace]
  rfl

theorem exec_of_skip {i : Instr} (h : i.cls = .skip) (s : State) : exec i s = .next s := by
  cases i with
  | term => cases h
  | span => cases h
  | skipB0 | skipB1 | skipB2 | skipB3 | skipB4 => rfl

/-- Every move is the step: the conditions of the moves say all that the step looks at. -/
theorem SrdMove.srdStep_eq {s t : State} (h : SrdMove s t) : srdStep s = .next t := by
  cases h with
  | idle hp => simp only [srdStep, hp]
  | clear hp hcp =>
    rw [srdStep_of_clear hp, clearStep, if_pos hcp,
      fbMemWrite_of_range _ (Int.natCast_nonneg _) (Int.ofNat_lt.2 hcp)]
    rfl
  | clearEnd hp hcp => rw [srdStep_of_clear hp, clearStep, if_neg (Nat.not_lt.2 hcp)]
  | bufferEnd hp hend => rw [srdStep_of_scan hp, scanStep, bufferEnd_true hend, if_pos rfl]
  | term hread hterm => rw [srdStep_of_windowRead hread, hterm]; rfl
  | skip hread hskip => rw [srdStep_of_windowRead hread, exec_of_skip hskip]
  | accept hread hspan hvalid =>
    obtain ⟨ex1, ex2, ey, x2b, x1b, yb, hi, rfl, rfl, rfl⟩ := hspan
    rw [srdStep_of_windowRead hread, hi]
    exact congrArg _ (if_pos hvalid)
  | reject hread hspan hvalid =>
    obtain ⟨ex1, ex2, ey, x2b, x1b, yb, hi, rfl, rfl, rfl⟩ := hspan
    rw [srdStep_of_windowRead hread, hi]
    exact congrArg _ (if_neg (by simp [hvalid]))
  | paint hp hl hlow hhigh =>
    rw [srdStep_of_paint hp, paintStep, if_pos hl, fbMemWrite_of_range _ hlow hhigh]
    rfl
  | paintEnd hp hl => rw [srdStep_of_paint hp, paintStep, if_neg (Int.not_lt.2 hl)]

/-! ### The moves of the host -/

/-- An accepted START has begun a decode whose header check passed (R100, R102). -/
abbrev State.clearBegun (s : State) : State := { beginDecode s with cp := 0, phase := .clear }

/-- An accepted START has reported an unknown message and finished; TAINT was cleared, so nothing is drawn
(R103, R110, R111). -/
abbrev State.startRefused (s : State) : State := finishExact (raise .unknownMessage (beginDecode s))

/-- One host access that goes on (R56), a constructor for each thing it can do. -/
inductive HostMove (act : HostAct) (s : State) : State → Prop
  /-- R58: a read. -/
  | read {t : State} (hread : readLeaves s t) : HostMove act s t
  /-- R23, R28, R30, R31, R101: a write without effect. -/
  | ignored : HostMove act s s
  /-- R29, R207. -/
  | bufLen (v : Word) : HostMove act s { hazard s with bufLen := legalLen s.cfg v }
  /-- R207. -/
  | ibuf {off : Nat} (v : Byte) (hoff : off < s.cfg.ibufSize) : HostMove act s (writeIbuf off v s)
  /-- R206. -/
  | fb {off : Nat} (v : Byte) (hoff : off < s.cfg.fbSize) : HostMove act s (writeFb off v s)
  /-- R103. -/
  | refuse (hphase : s.phase = .idle) (hstart : act.startsDecode s.cfg)
      (hheader : s.bufLen.toNat < 2 ∨ s.ibuf.read 1 ≠ MARKER) : HostMove act s s.startRefused
  /-- R100, R102. -/
  | start (hphase : s.phase = .idle) (hstart : act.startsDecode s.cfg) (hlen : 2 ≤ s.bufLen.toNat)
      (hmarker : s.ibuf.read 1 = MARKER) : HostMove act s s.clearBegun

/-- R58: what a read leaves differs in the host's log and the draws used alone. -/
theorem readLeaves_frame {s t : State} (h : readLeaves s t) :
    ∃ log n, t = { s with hostLog := log, draws := n } := by
  rcases h with ⟨v, -, ht⟩ | ⟨-, v, -, ht⟩ <;> exact ⟨_, _, ht⟩

theorem unknownMessage_beginDecode (s : State) : unknownMessage (beginDecode s) = s.startRefused :=
  finish_of_untainted rfl

theorem hostMove_of_hostStep {act : HostAct} {s t : State} (h : hostStep act s = .next t) :
    HostMove act s t := by
  rcases hostStep_cases h with hread | rfl | ⟨v, rfl⟩ | ⟨off, v, hoff, rfl⟩ | ⟨off, v, hoff, rfl⟩ |
    ⟨hp, hstart, hheader⟩
  · exact .read hread
  · exact .ignored
  · exact .bufLen v
  · exact .ibuf v hoff
  · exact .fb v hoff
  · rcases headerCheck_cases hheader with ⟨hbad, rfl⟩ | ⟨hlen, hmarker, rfl⟩
    · exact unknownMessage_beginDecode s ▸ .refuse hp hstart hbad
    · exact .start hp hstart hlen hmarker

/-! ### The moves summed up -/

/-- What a finish can follow: the buffer end or a TERM. `m` is the state that is finished, which has the
draws and the counts of `s`. -/
structure FinishOf (s m : State) : Prop where
  scanning : s.phase = .scan
  ended : s.len.toNat < s.rp.toNat + 4 ∨ windowNext s = .term
  taint : m.taint = s.taint
  fb : m.fb = s.fb
  ibuf : m.ibuf = s.ibuf
  draws : m.draws = s.draws
  hostLog : m.hostLog = s.hostLog
  segCount : m.segCount = s.segCount
  malCount : m.malCount = s.malCount

/-- The registers that an SRD move short of a finish leaves alone or counts up by a record. -/
structure WorkMove (s t : State) : Prop where
  status : t.status = s.status
  staysInDecode : s.phase ≠ .idle → t.phase ≠ .idle
  draws : t.draws = s.draws
  fbDraw : t.fb.draw = s.fb.draw
  ibuf : t.ibuf = s.ibuf
  hostLog : t.hostLog = s.hostLog
  counts : (t.segCount = s.segCount ∧ t.malCount = s.malCount) ∨
    (∃ y x1 x2, WindowRead s ∧ SpanAt s y x1 x2 ∧ spanValid s.cfg y x1 x2 = true ∧ t.phase = .paint ∧
      t.segCount = s.segCount + 1#32 ∧ t.malCount = s.malCount) ∨
    (∃ y x1 x2, WindowRead s ∧ SpanAt s y x1 x2 ∧ spanValid s.cfg y x1 x2 = false ∧ t.phase = .scan ∧
      t.malCount = s.malCount + 1#32 ∧ t.segCount = s.segCount)

/-- A move of the SRD is a finish, of the buffer or of a TERM, or it draws nothing, keeps STATUS and changes
a count by one record at most (R155). -/
theorem SrdMove.finish_or_work {s t : State} (h : SrdMove s t) :
    (∃ m, FinishOf s m ∧ t = finish m) ∨ WorkMove s t := by
  cases h with
  | bufferEnd hp hend => exact .inl ⟨s, ⟨hp, .inl hend, rfl, rfl, rfl, rfl, rfl, rfl, rfl⟩, rfl⟩
  | term hread hterm =>
    exact .inl ⟨s.termLatched, ⟨hread.scanning, .inr hterm, rfl, rfl, rfl, rfl, rfl, rfl, rfl⟩, rfl⟩
  | idle hp => exact .inr ⟨rfl, id, rfl, rfl, rfl, rfl, .inl ⟨rfl, rfl⟩⟩
  | clear hp | paint hp => exact .inr ⟨rfl, fun _ => by simp [hp], rfl, rfl, rfl, rfl, .inl ⟨rfl, rfl⟩⟩
  | clearEnd | paintEnd => exact .inr ⟨rfl, fun _ => by simp, rfl, rfl, rfl, rfl, .inl ⟨rfl, rfl⟩⟩
  | skip hread =>
    exact .inr ⟨rfl, fun _ => by simp [hread.scanning], rfl, rfl, rfl, rfl, .inl ⟨rfl, rfl⟩⟩
  | accept hread hspan hvalid =>
    exact .inr ⟨rfl, fun _ => by simp, rfl, rfl, rfl, rfl,
      .inr (.inl ⟨_, _, _, hread, hspan, hvalid, rfl, rfl, rfl⟩)⟩
  | reject hread hspan hvalid =>
    exact .inr ⟨rfl, fun _ => by simp [hread.scanning], rfl, rfl, rfl, rfl,
      .inr (.inr ⟨_, _, _, hread, hspan, hvalid, hread.scanning, rfl, rfl⟩)⟩

/-- The host's moves: an accepted START, which alone changes STATUS and sets the counts to 0, or a move that
leaves them. -/
theorem HostMove.start_or_keeps {act : HostAct} {s t : State} (h : HostMove act s t) :
    (s.phase = .idle ∧ act.startsDecode s.cfg ∧
      (((s.bufLen.toNat < 2 ∨ s.ibuf.read 1 ≠ MARKER) ∧ t = s.startRefused) ∨ t = s.clearBegun)) ∨
    (t.status = s.status ∧ t.phase = s.phase ∧ t.segCount = s.segCount ∧ t.malCount = s.malCount) := by
  cases h with
  | read hread =>
    obtain ⟨log, n, rfl⟩ := readLeaves_frame hread
    exact .inr ⟨rfl, rfl, rfl, rfl⟩
  | ignored | bufLen | ibuf | fb => exact .inr ⟨rfl, rfl, rfl, rfl⟩
  | refuse hp hstart hheader => exact .inl ⟨hp, hstart, .inl ⟨hheader, rfl⟩⟩
  | start hp hstart => exact .inl ⟨hp, hstart, .inr rfl⟩

/-! ### The moves of the system -/

/-- One step of the system (R15), by whose turn it is; `rest` are the turns after it. -/
inductive Move (s t : State) (rest : List Turn) : Prop
  | srd (hturn : srdNext s rest) (hmove : SrdMove { s with script := rest } t)
  | host {act : HostAct} (hturn : hostNext s act rest) (hmove : HostMove act { s with script := rest } t)
  | reset (hturn : s.script = .reset :: rest) (ht : t = platformReset { s with script := rest })

theorem move_of_step {s t : State} (h : step s = .next t) : ∃ rest, Move s t rest := by
  rcases step_cases h with ⟨hs, h⟩ | ⟨rest, hs, h⟩ | ⟨act, rest, hs, h⟩ | ⟨rest, hs, ht⟩
  · exact ⟨[], .srd (.inr ⟨hs, rfl⟩) (srdMove_of_srdStep (by rwa [← hs]))⟩
  · exact ⟨rest, .srd (.inl hs) (srdMove_of_srdStep h)⟩
  · exact ⟨rest, .host hs (hostMove_of_hostStep h)⟩
  · exact ⟨rest, .reset hs ht⟩

/-- An invariant that does not look at the turns to come, and that each agent's moves and the reset keep, is
kept by every step. -/
theorem step_keeps {P : State → Prop} (hscript : ∀ s turns, P s → P { s with script := turns })
    (hsrd : ∀ {s t}, P s → SrdMove s t → P t) (hhost : ∀ {act s t}, P s → HostMove act s t → P t)
    (hreset : ∀ s, P s → P (platformReset s)) {s t : State} (hs : P s) (hstep : step s = .next t) :
    P t := by
  obtain ⟨rest, hmove⟩ := move_of_step hstep
  have hs' := hscript s rest hs
  cases hmove with
  | srd _ hmove => exact hsrd hs' hmove
  | host _ hmove => exact hhost hs' hmove
  | reset _ ht => exact ht ▸ hreset _ hs'

end Sys2Proof.Machine
end

section
/-! The family of spec/10_state.md: the machine invariant, at reset and at every step (R24 to R38, R54, R116). -/

namespace Sys2Proof.Machine

/-! ### The part of the invariant that holds whatever the phase and the flags are -/

/-- What `Inv` says apart from the phase and STATUS: the configuration, the ranges of the registers, the
canonical form of the two memories. -/
structure RangeInv (s : State) : Prop where
  cfgWf : s.cfg.wf
  bufLenLegal : s.bufLen.toNat ≤ s.cfg.ibufSize
  lenLegal : s.len.toNat ≤ s.cfg.ibufSize
  cpRange : s.cp ≤ s.cfg.fbSize
  lRange : 0 ≤ s.l ∧ s.l ≤ (s.cfg.xMax : Int)
  fbWf : s.fb.wf = true ∧ s.fb.within s.cfg.fbSize = true
  ibufWf : s.ibuf.wf = true ∧ s.ibuf.within s.cfg.ibufSize = true
  drawsUsed : s.fb.draw < s.draws ∧ s.ibuf.draw < s.draws

theorem Inv.range {s : State} (h : Inv s) : RangeInv s where
  cfgWf := h.cfgWf
  bufLenLegal := h.bufLenLegal
  lenLegal := h.lenLegal
  cpRange := h.cpRange
  lRange := h.lRange
  fbWf := h.fbWf
  ibufWf := h.ibufWf
  drawsUsed := h.drawsUsed

/-- In IDLE the invariant asks for BUSY = 0 and the ranges alone. -/
theorem Inv.of_idle {s : State} (hphase : s.phase = .idle) (hbusy : s.status.busy = false)
    (h : RangeInv s) : Inv s where
  cfgWf := h.cfgWf
  busyIff := by simp [hphase, hbusy]
  notBusyDone := by simp [hbusy]
  busyFlags := by simp [hbusy]
  bufLenLegal := h.bufLenLegal
  lenLegal := h.lenLegal
  cpRange := h.cpRange
  clearing := by simp [hphase]
  rpAligned := by simp [hphase]
  counted := by simp [hphase]
  painting := by simp [hphase]
  lRange := h.lRange
  fbWf := h.fbWf
  ibufWf := h.ibufWf
  drawsUsed := h.drawsUsed

/-- A memory that holds a draw alone is in canonical form. -/
theorem ByteMem.draw_canonical (draw size : Nat) :
    (ByteMem.mk [] draw).wf = true ∧ (ByteMem.mk [] draw).within size = true := ⟨rfl, rfl⟩

/-- A write inside a space keeps the canonical form of its memory. -/
theorem ByteMem.write_canonical {m : ByteMem} {size off : Nat}
    (h : m.wf = true ∧ m.within size = true) (hoff : off < size) (v : Byte) :
    (m.write off v).wf = true ∧ (m.write off v).within size = true :=
  ⟨ByteMem.write_wf h.1 off v, ByteMem.write_within h.2 hoff v⟩

theorem RangeInv.finish {s : State} (h : RangeInv s) : RangeInv (finish s) where
  cfgWf := by simpa using h.cfgWf
  bufLenLegal := by simpa using h.bufLenLegal
  lenLegal := by simpa using h.lenLegal
  cpRange := by simpa using h.cpRange
  lRange := by simpa using h.lRange
  fbWf := by
    rcases finish_fb s with ⟨hfb, -⟩ | ⟨hfb, -⟩ <;> rw [hfb, finish_cfg]
    · exact h.fbWf
    · exact ByteMem.draw_canonical _ _
  ibufWf := by simpa using h.ibufWf
  drawsUsed := by
    obtain ⟨hfbDraw, hibufDraw⟩ := h.drawsUsed
    rw [finish_ibuf]
    rcases finish_fb s with ⟨hfb, hdraws⟩ | ⟨hfb, hdraws⟩ <;> rw [hfb, hdraws]
    · exact ⟨hfbDraw, hibufDraw⟩
    · exact ⟨show s.draws < s.draws + 5 by omega, by omega⟩

/-- R110, R111: a finish gives an idle state whose ranges are kept. -/
theorem Inv.finish {s : State} (h : RangeInv s) : Inv (finish s) :=
  .of_idle (finish_phase s) (finish_busy s) h.finish

theorem Inv.resetWith {c : Config} (h : c.wf) (draw : Nat) : Inv (State.resetWith c draw) :=
  .of_idle rfl rfl {
    cfgWf := h
    bufLenLegal := Nat.zero_le _
    lenLegal := Nat.zero_le _
    cpRange := Nat.zero_le _
    lRange := ⟨le_rfl, Int.natCast_nonneg _⟩
    fbWf := ByteMem.draw_canonical _ _
    ibufWf := ByteMem.draw_canonical _ _
    drawsUsed := ⟨show draw < draw + 2 by omega, show draw + 1 < draw + 2 by omega⟩ }

/-- R201: a reset gives R45's state, whatever the SRD was doing. -/
theorem Inv.platformReset {s : State} (h : Inv s) : Inv (platformReset s) :=
  let hreset := Inv.resetWith h.cfgWf s.draws
  .of_idle rfl rfl { hreset.range with }

/-! ### The SRD's moves -/

/-- R105: the byte at `s.CP` is inside FB, and `s.CP` stays at or below its size. -/
theorem Inv.clear {s : State} (h : Inv s) (hcp : s.cp < s.cfg.fbSize) :
    Inv { s with fb := s.fb.write s.cp PIX_OFF, cp := s.cp + 1 } :=
  { h with
    cpRange := hcp
    fbWf := ByteMem.write_canonical h.fbWf hcp _ }

/-- R106: the scan begins at byte 2 of a buffer that has a header, with no record counted. -/
theorem Inv.scanBegin {s : State} (h : Inv s) (hphase : s.phase = .clear) : Inv (scanBegin s) :=
  have hbusy : s.status.busy = true := h.busyIff.2 (by simp [hphase])
  have ⟨hlen, hseg, hmal⟩ := h.clearing hphase
  { h with
    busyIff := by simp [hbusy]
    clearing := by simp
    rpAligned := fun _ => ⟨rfl, hlen⟩
    counted := by simp [hseg, hmal]
    painting := by simp }

/-- R107, R130: `s.RP` goes to the next window. -/
theorem Inv.windowLatched {s : State} (h : Inv s) (hread : WindowRead s) : Inv s.windowLatched :=
  have hrp := rp_advance hread.inLength
  have ⟨haligned, _⟩ := h.rpAligned (.inl hread.scanning)
  have hcounted := h.counted (.inl hread.scanning)
  { h with
    rpAligned := fun _ => by
      have := hread.inLength
      simp only [latchWindow_rp, latchWindow_len, hrp]
      omega
    counted := fun _ => by
      simp only [latchWindow_rp, latchWindow_segCount, latchWindow_malCount, hrp]
      omega }

/-- R116: a window read leaves room for one count more. -/
theorem count_room {s : State} (h : Inv s) (hread : WindowRead s) :
    s.segCount.toNat + s.malCount.toNat < (s.windowLatched.rp.toNat - 2) / 4 := by
  have ⟨haligned, _⟩ := h.rpAligned (.inl hread.scanning)
  have hcounted := h.counted (.inl hread.scanning)
  rw [latchWindow_rp, rp_advance hread.inLength]
  omega

/-- R153: outside PAINT the coordinates are under no rule of the invariant. -/
theorem Inv.setCoords {s : State} (h : Inv s) (hphase : s.phase = .scan) (y x1 x2 : Int) :
    Inv (setCoords y x1 x2 s) :=
  { h with painting := by simp [hphase] }

theorem toNat_add_one_le (c : Word) : (c + 1#32).toNat ≤ c.toNat + 1 := by
  simp only [BitVec.toNat_add, BitVec.toNat_ofNat]
  omega

/-- R156. -/
theorem Inv.rejectSpan {s : State} (h : Inv s) (hphase : s.phase = .scan)
    (hroom : s.segCount.toNat + s.malCount.toNat < (s.rp.toNat - 2) / 4) : Inv (rejectSpan s) :=
  have := toNat_add_one_le s.malCount
  { h with
    clearing := by simp [hphase]
    counted := fun _ => by simp only [rejectSpan_segCount, rejectSpan_malCount, rejectSpan_rp]; omega }

/-- R157: the paint of a valid span begins at its column X1. -/
theorem Inv.acceptSpan {s : State} (h : Inv s) (hphase : s.phase = .scan)
    (hvalid : spanValid s.cfg s.y s.x1 s.x2 = true)
    (hroom : s.segCount.toNat + s.malCount.toNat < (s.rp.toNat - 2) / 4) : Inv (acceptSpan s) :=
  have hbusy : s.status.busy = true := h.busyIff.2 (by simp [hphase])
  have := toNat_add_one_le s.segCount
  have ⟨_, hx1, _⟩ := (spanValid_iff ..).1 hvalid
  { h with
    busyIff := by simp [hbusy]
    clearing := by simp
    rpAligned := fun _ => h.rpAligned (.inl hphase)
    counted := fun _ => by simp only [acceptSpan_segCount, acceptSpan_malCount, acceptSpan_rp]; omega
    painting := fun _ => ⟨hvalid, le_rfl, .inr rfl⟩
    lRange := hx1 }

/-- R158: the column painted is left of X2, so the next one is at most X2. -/
theorem Inv.paint {s : State} (h : Inv s) (hphase : s.phase = .paint) (hl : s.l < s.x2)
    (hlow : 0 ≤ pixelOffset s.cfg s.y s.l) (hhigh : pixelOffset s.cfg s.y s.l < (s.cfg.fbSize : Int)) :
    Inv { s with fb := s.fb.write (pixelOffset s.cfg s.y s.l).toNat PIX_ON, l := s.l + 1 } :=
  have ⟨hvalid, hx1, _⟩ := h.painting hphase
  have ⟨_, _, hx2⟩ := (spanValid_iff ..).1 hvalid
  have ⟨hl0, _⟩ := h.lRange
  { h with
    painting := fun _ => ⟨hvalid, show s.x1 ≤ s.l + 1 by omega, .inl hl⟩
    lRange := ⟨show 0 ≤ s.l + 1 by omega, show s.l + 1 ≤ (s.cfg.xMax : Int) by omega⟩
    fbWf := ByteMem.write_canonical h.fbWf (by omega) _ }

theorem Inv.paintEnd {s : State} (h : Inv s) (hphase : s.phase = .paint) : Inv { s with phase := .scan } :=
  have hbusy : s.status.busy = true := h.busyIff.2 (by simp [hphase])
  { h with
    busyIff := by simp [hbusy]
    clearing := by simp
    rpAligned := fun _ => h.rpAligned (.inr hphase)
    counted := fun _ => h.counted (.inr hphase)
    painting := by simp }

theorem Inv.srdMove {s t : State} (h : Inv s) (hmove : SrdMove s t) : Inv t := by
  cases hmove with
  | idle => exact h
  | clear _ hcp => exact h.clear hcp
  | clearEnd hp => exact h.scanBegin hp
  | bufferEnd => exact .finish h.range
  | term hread => exact .finish { (h.windowLatched hread).range with }
  | skip hread => exact h.windowLatched hread
  | accept hread _ hvalid =>
    exact ((h.windowLatched hread).setCoords hread.scanning ..).acceptSpan hread.scanning hvalid
      (count_room h hread)
  | reject hread =>
    exact ((h.windowLatched hread).setCoords hread.scanning ..).rejectSpan hread.scanning
      (count_room h hread)
  | paint hp hl hlow hhigh => exact h.paint hp hl hlow hhigh
  | paintEnd hp => exact h.paintEnd hp

/-! ### The host's moves -/

theorem Inv.readLeaves {s t : State} (h : Inv s) (hread : readLeaves s t) : Inv t := by
  rcases hread with ⟨v, -, rfl⟩ | ⟨-, v, -, rfl⟩
  · exact { h with }
  · obtain ⟨hfb, hibuf⟩ := h.drawsUsed
    exact { h with drawsUsed := ⟨Nat.lt_succ_of_lt hfb, Nat.lt_succ_of_lt hibuf⟩ }

/-- R29: what BUF_LEN stores is legal. -/
theorem Inv.writeBufLen {s : State} (h : Inv s) (v : Word) :
    Inv { hazard s with bufLen := legalLen s.cfg v } :=
  have ⟨⟨_, hsize⟩, _⟩ := h.cfgWf
  { h with bufLenLegal := by simp [legalLen_toNat _ _ hsize] }

theorem Inv.writeIbuf {s : State} (h : Inv s) {off : Nat} (hoff : off < s.cfg.ibufSize) (v : Byte) :
    Inv (writeIbuf off v s) :=
  { h with ibufWf := ByteMem.write_canonical h.ibufWf hoff v }

theorem Inv.writeFb {s : State} (h : Inv s) {off : Nat} (hoff : off < s.cfg.fbSize) (v : Byte) :
    Inv (writeFb off v s) :=
  { h with fbWf := ByteMem.write_canonical h.fbWf hoff v }

/-- R103: a refused START ends in IDLE, with a legal length latched. -/
theorem Inv.startRefused {s : State} (h : Inv s) : Inv s.startRefused :=
  .of_idle rfl rfl { h.range with lenLegal := h.bufLenLegal }

/-- R100, R102: the clear begins with the results at 0 and a buffer that has a header. -/
theorem Inv.clearBegun {s : State} (h : Inv s) (hlen : 2 ≤ s.bufLen.toNat) : Inv s.clearBegun :=
  { h with
    busyIff := by simp [Status.started]
    notBusyDone := fun _ => rfl
    busyFlags := fun _ => ⟨rfl, rfl⟩
    lenLegal := h.bufLenLegal
    cpRange := Nat.zero_le _
    clearing := fun _ => ⟨hlen, rfl, rfl⟩
    rpAligned := by simp
    counted := by simp
    painting := by simp }

theorem Inv.hostMove {act : HostAct} {s t : State} (h : Inv s) (hmove : HostMove act s t) : Inv t := by
  cases hmove with
  | read hread => exact h.readLeaves hread
  | ignored => exact h
  | bufLen v => exact h.writeBufLen v
  | ibuf v hoff => exact h.writeIbuf hoff v
  | fb v hoff => exact h.writeFb hoff v
  | refuse => exact h.startRefused
  | start _ _ hlen => exact h.clearBegun hlen

/-- Settles O39: each agent's moves and the reset keep the invariant, and it does not look at the script. -/
theorem stepKeepsInvariant : Obligations.StepKeepsInvariant := fun _ _ =>
  step_keeps (fun _ turns h => h.withScript turns) Inv.srdMove Inv.hostMove fun _ => Inv.platformReset

end Sys2Proof.Machine
end

section
/-! The family of spec/10_state.md: what FB holds during a decode that no hazard has touched (R41, R105, R160),
and the ranges of the adjusted coordinates (R37, R152). -/

namespace Sys2Proof.Machine

/-! ### FB's invariant on the SRD's moves -/

/-- A tainted state's frame is under no rule. -/
theorem FrameInv.of_tainted {s : State} (h : s.taint = true) : FrameInv s where
  cleared := by simp [h]
  binary := by simp [h]
  lastColumn := by simp [h]

/-- A move between SCAN and PAINT that leaves FB and TAINT alone keeps what FB holds. -/
theorem FrameInv.of_same_frame {s t : State} (h : FrameInv s) (hs : s.decoding) (ht : t.decoding)
    (hcfg : t.cfg = s.cfg) (hfb : t.fb = s.fb) (htaint : t.taint = s.taint) : FrameInv t where
  cleared hclear := by rcases ht with ht | ht <;> simp [ht] at hclear
  binary _ hclean := by
    rw [hcfg, hfb]
    exact h.binary hs (htaint ▸ hclean)
  lastColumn _ hclean := by
    rw [hcfg, hfb]
    exact h.lastColumn hs (htaint ▸ hclean)

/-- R105: one byte more is clear. -/
theorem FrameInv.clear {s : State} (h : FrameInv s) (hphase : s.phase = .clear) :
    FrameInv { s with fb := s.fb.write s.cp PIX_OFF, cp := s.cp + 1 } where
  cleared _ hclean a ha := by
    rw [ByteMem.read_write]
    split
    · rfl
    · rename_i hne
      exact h.cleared hphase hclean a (Nat.lt_of_le_of_ne (Nat.le_of_lt_succ ha) hne)
  binary := by simp [hphase]
  lastColumn := by simp [hphase]

/-- The last column of a row is a byte of FB (R53, R54). -/
theorem lastColumn_lt_fbSize (c : Config) {row : Nat} (hrow : row < c.fbH) :
    row * c.fbW + c.xMax < c.fbSize :=
  calc row * c.fbW + c.xMax < row * c.fbW + c.fbW := Nat.add_lt_add_left (Nat.lt_succ_self _) _
    _ = (row + 1) * c.fbW := (Nat.succ_mul ..).symm
    _ ≤ c.fbH * c.fbW := Nat.mul_le_mul_right _ hrow

/-- R106: the scan begins on a frame that is clear throughout. -/
theorem FrameInv.scanBegin {s : State} (h : FrameInv s) (hphase : s.phase = .clear)
    (hcp : s.cfg.fbSize ≤ s.cp) : FrameInv (scanBegin s) where
  cleared := by simp
  binary _ hclean a ha := .inl (h.cleared hphase hclean a (Nat.lt_of_lt_of_le ha hcp))
  lastColumn _ hclean row hrow :=
    h.cleared hphase hclean _ (Nat.lt_of_lt_of_le (lastColumn_lt_fbSize s.cfg hrow) hcp)

/-- R160: a pixel left of column `X_MAX` is in no row the pixel of column `X_MAX`. -/
theorem pixelOffset_ne_lastColumn (c : Config) {y l : Int} (hy : 0 ≤ y) (hl : 0 ≤ l)
    (hmax : l < (c.xMax : Int)) (row : Nat) :
    row * c.fbW + c.xMax ≠ (pixelOffset c y l).toNat := by
  lift y to Nat using hy
  lift l to Nat using hl
  have hoffset : (pixelOffset c y l).toNat = y * c.fbW + l := by
    rw [pixelOffset, ← Int.natCast_mul, ← Int.natCast_add, Int.toNat_natCast]
  intro heq
  rw [hoffset] at heq
  have hcolumn : c.xMax % c.fbW = l % c.fbW := by
    rw [← Nat.mul_add_mod_self_right row c.fbW c.xMax, heq, Nat.mul_add_mod_self_right]
  have hmaxWidth : c.xMax < c.fbW := Nat.lt_succ_self _
  rw [Nat.mod_eq_of_lt hmaxWidth, Nat.mod_eq_of_lt (by omega)] at hcolumn
  omega

/-- R158, R160: a painted byte is 255, and the column painted is left of X2, which is at most `X_MAX`. -/
theorem FrameInv.paint {s : State} (hinv : Inv s) (h : FrameInv s) (hphase : s.phase = .paint)
    (hl : s.l < s.x2) :
    FrameInv { s with fb := s.fb.write (pixelOffset s.cfg s.y s.l).toNat PIX_ON, l := s.l + 1 } where
  cleared := by simp [hphase]
  binary _ hclean a ha := by
    rw [ByteMem.read_write]
    split
    · exact .inr rfl
    · exact h.binary (.inr hphase) hclean a ha
  lastColumn _ hclean row hrow := by
    obtain ⟨hvalid, -, -⟩ := hinv.painting hphase
    obtain ⟨⟨hy, -⟩, -, -, hx2⟩ := (spanValid_iff ..).1 hvalid
    have hne := pixelOffset_ne_lastColumn s.cfg hy hinv.lRange.1 (by omega) row
    rw [ByteMem.read_write_other _ hne]
    exact h.lastColumn (.inr hphase) hclean row hrow

theorem FrameInv.srdMove {s t : State} (hinv : Inv s) (h : FrameInv s) (hmove : SrdMove s t) :
    FrameInv t := by
  cases hmove with
  | idle => exact h
  | clear hp => exact h.clear hp
  | clearEnd hp hcp => exact h.scanBegin hp hcp
  | bufferEnd => exact .of_idle (finish_phase _)
  | term => exact .of_idle (finish_phase _)
  | skip hread => exact h.of_same_frame (.inl hread.scanning) (.inl hread.scanning) rfl rfl rfl
  | accept hread => exact h.of_same_frame (.inl hread.scanning) (.inr rfl) rfl rfl rfl
  | reject hread => exact h.of_same_frame (.inl hread.scanning) (.inl hread.scanning) rfl rfl rfl
  | paint hp hl => exact h.paint hinv hp hl
  | paintEnd hp => exact h.of_same_frame (.inr hp) (.inl rfl) rfl rfl rfl

/-! ### FB's invariant on the host's moves -/

/-- R206, R207: a hazard while BUSY taints the decode; in IDLE there is no rule to break. So a write that
keeps the phase keeps the invariant whatever it writes. -/
theorem FrameInv.of_hazard {s t : State} (hinv : Inv s) (hphase : t.phase = s.phase)
    (htaint : t.taint = (hazard s).taint) : FrameInv t := by
  by_cases hidle : s.phase = .idle
  · exact .of_idle (hphase.trans hidle)
  · exact .of_tainted (by simp [htaint, hinv.busyIff.2 hidle])

theorem FrameInv.readLeaves {s t : State} (h : FrameInv s) (hread : readLeaves s t) : FrameInv t := by
  obtain ⟨log, n, rfl⟩ := readLeaves_frame hread
  exact { h with }

/-- R100: at the start of a clear no byte has been cleared yet. -/
theorem FrameInv.clearBegun (s : State) : FrameInv s.clearBegun where
  cleared _ _ a ha := absurd ha (Nat.not_lt_zero a)
  binary := by simp
  lastColumn := by simp

theorem FrameInv.hostMove {act : HostAct} {s t : State} (hinv : Inv s) (h : FrameInv s)
    (hmove : HostMove act s t) : FrameInv t := by
  cases hmove with
  | read hread => exact h.readLeaves hread
  | ignored => exact h
  | bufLen => exact .of_hazard hinv rfl rfl
  | ibuf => exact .of_hazard hinv rfl rfl
  | fb => exact .of_hazard hinv rfl rfl
  | refuse => exact .of_idle rfl
  | start => exact .clearBegun s

/-- Settles O40: with the machine invariant, which the paint's columns need, each agent's moves keep what FB
holds; a reset and a finish end in IDLE, where there is no rule. -/
theorem stepKeepsFrameInvariant : Obligations.StepKeepsFrameInvariant := fun _ t hinv hframe hstep =>
  have hboth : Inv t ∧ FrameInv t :=
    step_keeps (P := fun s => Inv s ∧ FrameInv s)
      (fun _ turns h => ⟨h.1.withScript turns, h.2.withScript turns⟩)
      (fun h hmove => ⟨h.1.srdMove hmove, h.2.srdMove h.1 hmove⟩)
      (fun h hmove => ⟨h.1.hostMove hmove, h.2.hostMove h.1 hmove⟩)
      (fun _ h => ⟨h.1.platformReset, .of_idle rfl⟩) ⟨hinv, hframe⟩ hstep
  hboth.2

/-! ### The coordinates -/

/-- R37, R152: an adjusted coordinate of a record, for either offset. -/
theorem adjust_extend_range (off : Nat) (b : Byte) (e : Bool) :
    -(off : Int) ≤ adjust off (extend b e) ∧ adjust off (extend b e) ≤ 510 - (off : Int) := by
  have := extend_le b e
  unfold adjust
  omega

/-- A SPAN's coordinates are in range, valid or not (R153). -/
theorem SpanAt.coordInv {s : State} {y x1 x2 : Int} (h : SpanAt s y x1 x2) :
    CoordInv (setCoords y x1 x2 s) := by
  obtain ⟨ex1, ex2, ey, x2b, x1b, yb, -, rfl, rfl, rfl⟩ := h
  exact ⟨adjust_extend_range .., adjust_extend_range .., adjust_extend_range ..⟩

theorem CoordInv.srdMove {s t : State} (h : CoordInv s) (hmove : SrdMove s t) : CoordInv t := by
  cases hmove with
  | accept _ hspan | reject _ hspan =>
    have hrange := hspan.coordInv
    exact hrange
  | bufferEnd | term => simpa [CoordInv] using h
  | idle | clear | clearEnd | skip | paint | paintEnd => exact h

theorem CoordInv.hostMove {act : HostAct} {s t : State} (h : CoordInv s) (hmove : HostMove act s t) :
    CoordInv t := by
  cases hmove with
  | read hread =>
    obtain ⟨log, n, rfl⟩ := readLeaves_frame hread
    exact h
  | ignored | bufLen | ibuf | fb | refuse | start => exact h

/-- R45 puts the coordinates at 0, which is in range for offsets up to 510. -/
theorem CoordInv.resetWith {c : Config} (hy : c.yOff ≤ 510) (hx : c.xOff ≤ 510) (draw : Nat) :
    CoordInv (State.resetWith c draw) := by
  simp only [CoordInv, State.resetWith]
  omega

/-- The offsets are in reach of R75's values, and the coordinates in range. -/
def OffsetsAndCoords (s : State) : Prop := (s.cfg.yOff ≤ 510 ∧ s.cfg.xOff ≤ 510) ∧ CoordInv s

theorem SrdMove.cfg_eq {s t : State} (h : SrdMove s t) : t.cfg = s.cfg := by
  cases h with
  | bufferEnd | term => exact finish_cfg _
  | idle | clear | clearEnd | skip | accept | reject | paint | paintEnd => rfl

theorem HostMove.cfg_eq {act : HostAct} {s t : State} (h : HostMove act s t) : t.cfg = s.cfg := by
  cases h with
  | read hread =>
    obtain ⟨log, n, rfl⟩ := readLeaves_frame hread
    rfl
  | ignored | bufLen | ibuf | fb | refuse | start => rfl

/-- Settles O41: only a SPAN and a reset write a coordinate register. -/
theorem stepKeepsCoordinateRanges : Obligations.StepKeepsCoordinateRanges := by
  intro s t hy hx hcoord hstep
  have hboth : OffsetsAndCoords t :=
    step_keeps (P := OffsetsAndCoords) (fun _ _ h => h)
      (fun ⟨hoff, h⟩ hmove => ⟨by rwa [hmove.cfg_eq], CoordInv.srdMove h hmove⟩)
      (fun ⟨hoff, h⟩ hmove => ⟨by rwa [hmove.cfg_eq], CoordInv.hostMove h hmove⟩)
      (fun s ⟨hoff, _⟩ => ⟨hoff, CoordInv.resetWith hoff.1 hoff.2 s.draws⟩) ⟨⟨hy, hx⟩, hcoord⟩ hstep
  exact hboth.2

/-! ### Reset, and the finished frame -/

/-- Settles O38: R45's state is idle, its registers and coordinates are 0, and its memories hold draws alone. -/
theorem resetMeetsTheInvariants : Obligations.ResetMeetsTheInvariants := fun _ draw hwf =>
  ⟨Inv.resetWith hwf draw, .of_idle rfl, fun hy hx => CoordInv.resetWith hy hx draw⟩

theorem finish_fb_of_untainted {s : State} (h : s.taint = false) : (finish s).fb = s.fb := by
  rw [finish_of_untainted h]; rfl

/-- Settles O43: outside IDLE only a finish reaches IDLE, from SCAN, and without a hazard it leaves FB as the
frame invariant has it there. -/
theorem finishedFrameIsBinary : Obligations.FinishedFrameIsBinary := by
  intro s t _ hframe hbusy hclean hnoReset hstep hidle
  obtain ⟨rest, hmove⟩ := move_of_step hstep
  cases hmove with
  | srd _ hmove =>
    rw [hmove.cfg_eq]
    rcases hmove.finish_or_work with ⟨m, hfinish, rfl⟩ | hwork
    · have hscan : s.phase = .scan := hfinish.scanning
      rw [finish_fb_of_untainted (hfinish.taint.trans hclean), hfinish.fb]
      exact ⟨hframe.binary (.inl hscan) hclean,
        fun row hrow => hframe.lastColumn (.inl hscan) hclean row (Nat.lt_succ_of_le hrow)⟩
    · exact absurd hidle (hwork.staysInDecode hbusy)
  | host _ hmove =>
    rcases hmove.start_or_keeps with ⟨hp, -⟩ | ⟨-, hphase, -⟩
    · exact absurd hp hbusy
    · exact absurd (hphase.symm.trans hidle) hbusy
  | reset hturn => exact absurd ⟨rest, hturn⟩ hnoReset

end Sys2Proof.Machine
end

section
/-! The family of spec/10_state.md: IDLE, the state after reset, and what the host reads and writes in the five
registers (R22 to R31, R40, R45, R207). -/

namespace Sys2Proof.Machine

/-- Settles O24: in IDLE the SRD's one move leaves the state as it is. -/
theorem idleTakesNoStep : Obligations.IdleTakesNoStep := fun s rest hturn hphase =>
  (step_of_srdNext hturn).trans
    (SrdMove.idle (s := { s with script := rest }) hphase).srdStep_eq

/-- Settles O37: R45 lists the values, and `State.reset` is that list. -/
theorem resetState : Obligations.ResetState := by
  have hfb : ∀ a, State.reset.fb.read a = Config.freeByte 0 a := fun _ => rfl
  have hibuf : ∀ a, State.reset.ibuf.read a = Config.freeByte 1 a := fun _ => rfl
  exact ⟨rfl, rfl, rfl, rfl, rfl, rfl, rfl, rfl, rfl, rfl, rfl, rfl, rfl, rfl, hfb, hibuf,
    ⟨rfl, rfl, rfl, rfl⟩, rfl⟩

/-! ### Register accesses -/

theorem regOfOffset_aligned {off : Nat} {r : Reg} (h : regOfOffset off = some r) : off % 4 = 0 := by
  by_contra hne
  have hnone : regOfOffset off = none := regOfOffset_eq_none_iff.2 fun hoff => by
    simp only [List.mem_cons, List.not_mem_nil, or_false] at hoff
    omega
  simp [hnone] at h

theorem regPort_of_reg {off : Nat} {r : Reg} (h : regOfOffset off = some r) (k : Reg → Result) :
    regPort off 32 k = k r := by
  simp [regPort, regOfOffset_aligned h, h]

/-- R22: a 32-bit read at a register's offset is that register's read. -/
theorem step_readReg (r : Reg) {s : State} {rest : List Turn} {off : Nat} (hreg : regOfOffset off = some r)
    (h : hostNext s (.read (.offset .reg off) 32) rest) :
    step s = .next (readReg r { s with script := rest }) := by
  rw [step_of_hostNext h, hostStep_read (by rfl), hostRead, regPort_of_reg hreg]

/-- R22: a 32-bit write at a register's offset is that register's write. -/
theorem step_writeReg (r : Reg) {s : State} {rest : List Turn} {off : Nat} {v : Word}
    (hreg : regOfOffset off = some r) (h : hostNext s (.write (.offset .reg off) 32 v) rest) :
    step s = writeReg r v { s with script := rest } := by
  rw [step_of_hostNext h, hostStep_write (by rfl), hostWrite, regPort_of_reg hreg]

/-- R23: a write of CTRL acts by bit 0 alone. -/
theorem writeReg_ctrl (v : Word) (s : State) :
    writeReg .ctrl v s = if v.getLsbD 0 then startCommand s else .next s := rfl

/-- Settles O28: by bit 0 of the value, which is all a write of CTRL looks at. -/
theorem controlRegister : Obligations.ControlRegister := by
  refine fun s rest v => ⟨fun h hbit => ?_, fun h hbit => ?_, step_readReg .ctrl rfl⟩
  · rw [step_writeReg .ctrl rfl h, writeReg_ctrl, if_neg (ne_true_of_eq_false hbit)]
  · have hone : (1#32).getLsbD 0 = true := rfl
    rw [step_writeReg .ctrl rfl h, writeReg_ctrl, if_pos hbit]
    rw [step_writeReg .ctrl rfl (v := 1#32) (rest := rest) rfl, writeReg_ctrl, if_pos hone]

/-- R24 to R28: the bit `k` of STATUS as the host reads it. -/
theorem Status.getLsbD_word (st : Status) (k : Nat) :
    st.word.getLsbD k = match k with
      | 0 => st.busy
      | 1 => st.done
      | 2 => st.unknownMsg
      | 3 => st.termSeen
      | _ + 4 => false := by
  change BitVec.getLsbD (w := 28 + 1 + 1 + 1 + 1) (0#28 ++ BitVec.ofBool st.termSeen ++
    BitVec.ofBool st.unknownMsg ++ BitVec.ofBool st.done ++ BitVec.ofBool st.busy) k = _
  rw [BitVec.getLsbD_append, BitVec.getLsbD_append, BitVec.getLsbD_append, BitVec.getLsbD_append]
  match k with
  | 0 | 1 | 2 | 3 => simp
  | k + 4 => simp

/-- Settles O29: a read returns `Status.word`, whose bits are known one by one; a write has no effect. -/
theorem statusRegister : Obligations.StatusRegister := by
  refine fun s rest v => ⟨fun h => ⟨s.status.word, step_readReg .status rfl h, ?_⟩,
    step_writeReg .status rfl⟩
  have hbits := s.status.getLsbD_word
  refine ⟨hbits 0, hbits 1, hbits 2, hbits 3, fun k hk => ?_⟩
  obtain ⟨k, rfl⟩ := Nat.exists_eq_add_of_le' hk
  exact hbits (k + 4)

/-- Settles O30: the value stored is `legalLen`, which is the minimum since IBUF_SIZE fits a word (R10). -/
theorem bufLenRegister : Obligations.BufLenRegister := by
  intro s rest v hwf
  obtain ⟨⟨-, hsize⟩, -⟩ := hwf
  exact ⟨fun h => ⟨legalLen s.cfg v, legalLen_toNat _ _ hsize, step_writeReg .bufLen rfl h⟩,
    step_readReg .bufLen rfl⟩

/-- R40: a count read in a state that is not BUSY is exact. -/
theorem readCount_of_idle {s : State} (hbusy : s.status.busy = false) (v : Word) :
    readCount v s = hostReply v s := by simp [readCount, hbusy]

/-- R40: a count read while BUSY is the next draw, whichever count it is. -/
theorem readCount_of_busy {s : State} (hbusy : s.status.busy = true) (v : Word) :
    readCount v s = useDraw (hostReply (Config.freeWord s.draws) s) := by simp [readCount, hbusy]

/-- Settles O31: the two reads are one operation, by BUSY; a write of a count has no effect. -/
theorem countRegisters : Obligations.CountRegisters := by
  intro s rest v
  have hidle := readCount_of_idle (s := { s with script := rest })
  have hbusy := readCount_of_busy (s := { s with script := rest })
  refine ⟨fun h hb => ?_, fun h hb => ?_, fun h hb => ?_, fun h => ?_⟩
  · exact (step_readReg .segCount rfl h).trans (congrArg _ (hidle hb s.segCount))
  · exact (step_readReg .malCount rfl h).trans (congrArg _ (hidle hb s.malCount))
  · rcases h with h | h
    · exact (step_readReg .segCount rfl h).trans (congrArg _ (hbusy hb s.segCount))
    · exact (step_readReg .malCount rfl h).trans (congrArg _ (hbusy hb s.malCount))
  · exact h.elim (step_writeReg .segCount rfl) (step_writeReg .malCount rfl)

end Sys2Proof.Machine
end

section
/-! The family of spec/10_state.md: what one step can change, RP, DONE, the two counts and the free values
(R16, R25, R30, R31, R33, R40, R111, R200). -/

namespace Sys2Proof.Machine

/-! ### A move with the turn that makes it -/

/-- The window of a SCAN step that is a SPAN, with what its range check answers. -/
theorem spanNext_of_spanAt {s : State} {rest : List Turn} {y x1 x2 : Int} {valid : Bool}
    (hturn : srdNext s rest) (hread : WindowRead { s with script := rest })
    (hspan : SpanAt { s with script := rest } y x1 x2) (hvalid : spanValid s.cfg y x1 x2 = valid) :
    spanNext s valid := by
  obtain ⟨ex1, ex2, ey, x2b, x1b, yb, hi, rfl, rfl, rfl⟩ := hspan
  exact ⟨⟨rest, hturn⟩, hread.scanning, hread.inLength, ex1, ex2, ey, x2b, x1b, yb, hi, hvalid⟩

theorem FinishOf.finishNext {s m : State} {rest : List Turn} (h : FinishOf { s with script := rest } m)
    (hturn : srdNext s rest) : finishNext s := ⟨⟨rest, hturn⟩, h.scanning, h.ended⟩

/-- The read pointer's two moves (R106, R109). -/
theorem SrdMove.rp_cases {s t : State} (h : SrdMove s t) :
    t.rp = s.rp ∨ (s.phase = .clear ∧ t.phase = .scan ∧ t.rp = 2#32) ∨
      (s.phase = .scan ∧ s.rp.toNat + 4 ≤ s.len.toNat ∧ t.rp = s.rp + 4#32) := by
  cases h with
  | idle | clear | paint | paintEnd => exact .inl rfl
  | bufferEnd => exact .inl (finish_rp _)
  | clearEnd hp => exact .inr (.inl ⟨hp, rfl, rfl⟩)
  | term hread => exact .inr (.inr ⟨hread.scanning, hread.inLength, finish_rp _⟩)
  | skip hread | accept hread | reject hread =>
    exact .inr (.inr ⟨hread.scanning, hread.inLength, rfl⟩)

theorem HostMove.rp_eq {act : HostAct} {s t : State} (h : HostMove act s t) : t.rp = s.rp := by
  cases h with
  | read hread =>
    obtain ⟨log, n, rfl⟩ := readLeaves_frame hread
    rfl
  | ignored | bufLen | ibuf | fb | refuse | start => rfl

/-- Settles O46: the host never moves RP, and the SRD moves it in two ways. -/
theorem readPointerMoves : Obligations.ReadPointerMoves := by
  intro s t hstep hnoReset hmoved
  obtain ⟨rest, hmove⟩ := move_of_step hstep
  cases hmove with
  | srd _ hmove => exact hmove.rp_cases.resolve_left hmoved
  | host _ hmove => exact absurd hmove.rp_eq hmoved
  | reset hturn => exact absurd ⟨rest, hturn⟩ hnoReset

/-! ### DONE and the counts -/

/-- Settles O47: a finish sets DONE, a START sets it or clears it by the header check, and every other move
keeps STATUS. -/
theorem doneChangesOnlyAtFinishOrStart : Obligations.DoneChangesOnlyAtFinishOrStart := by
  intro s t hstep hnoReset
  obtain ⟨rest, hmove⟩ := move_of_step hstep
  have hkept {p q : Prop} (h : t.status = s.status) :
      (s.status.done = false → t.status.done = true → p) ∧
        (s.status.done = true → t.status.done = false → q) := by
    rw [h]
    exact ⟨fun h0 h1 => (nomatch h0.symm.trans h1), fun h1 h0 => (nomatch h1.symm.trans h0)⟩
  cases hmove with
  | srd hturn hmove =>
    rcases hmove.finish_or_work with ⟨m, hfinish, rfl⟩ | hwork
    · exact ⟨fun _ _ => ⟨finish_phase m, finish_busy m, .inl (hfinish.finishNext hturn)⟩,
        fun _ hclear => by simp at hclear⟩
    · exact hkept hwork.status
  | host hturn hmove =>
    rcases hmove.start_or_keeps with ⟨hp, hstart, ⟨hheader, rfl⟩ | rfl⟩ | ⟨hstatus, -⟩
    · exact ⟨fun _ _ => ⟨rfl, rfl, .inr ⟨⟨_, rest, hturn, hstart⟩, hp, hheader⟩⟩,
        fun _ hclear => nomatch hclear⟩
    · exact ⟨fun _ hset => (nomatch hset), fun _ _ => ⟨⟨_, rest, hturn, hstart⟩, hp, rfl, rfl⟩⟩
    · exact hkept hstatus
  | reset hturn => exact absurd ⟨rest, hturn⟩ hnoReset

/-- A finish without a hazard keeps the counts. -/
theorem finish_counts_of_untainted {s : State} (h : s.taint = false) :
    (finish s).segCount = s.segCount ∧ (finish s).malCount = s.malCount := by
  rw [finish_of_untainted h]
  exact ⟨rfl, rfl⟩

/-- A finish that changes a count is one with TAINT set. -/
theorem FinishOf.tainted_of_counts_ne {s m : State} (h : FinishOf s m)
    (hne : (finish m).segCount ≠ s.segCount ∨ (finish m).malCount ≠ s.malCount) : s.taint = true := by
  by_contra hclean
  obtain ⟨hseg, hmal⟩ := finish_counts_of_untainted (h.taint.trans (Bool.eq_false_iff.2 hclean))
  exact hne.elim (fun hne => hne (hseg.trans h.segCount)) fun hne => hne (hmal.trans h.malCount)

/-- Settles O48: a START sets the counts to 0, a SPAN's window adds one to one of them, a finish with TAINT
set draws them, and every other move keeps both. -/
theorem countsChangeOnlyByRecords : Obligations.CountsChangeOnlyByRecords := by
  intro s t hstep hnoReset
  obtain ⟨rest, hmove⟩ := move_of_step hstep
  cases hmove with
  | srd hturn hmove =>
    rcases hmove.finish_or_work with ⟨m, hfinish, rfl⟩ | hwork
    · have hnext : finishNext s := hfinish.finishNext hturn
      exact ⟨fun hne => .inr (.inr ⟨hnext, finish_phase m, hfinish.tainted_of_counts_ne (.inl hne)⟩),
        fun hne => .inr (.inr ⟨hnext, finish_phase m, hfinish.tainted_of_counts_ne (.inr hne)⟩)⟩
    · rcases hwork.counts with ⟨hseg, hmal⟩ | ⟨y, x1, x2, hread, hspan, hvalid, hp, hseg, hmal⟩ |
        ⟨y, x1, x2, hread, hspan, hvalid, hp, hmal, hseg⟩
      · exact ⟨fun hne => absurd hseg hne, fun hne => absurd hmal hne⟩
      · exact ⟨fun _ => .inr (.inl ⟨spanNext_of_spanAt hturn hread hspan hvalid, hp, hseg, hmal⟩),
          fun hne => absurd hmal hne⟩
      · exact ⟨fun hne => absurd hseg hne,
          fun _ => .inr (.inl ⟨spanNext_of_spanAt hturn hread hspan hvalid, hp, hmal, hseg⟩)⟩
  | host hturn hmove =>
    rcases hmove.start_or_keeps with ⟨hp, hstart, ht⟩ | ⟨-, -, hseg, hmal⟩
    · have hnext : startNext s := ⟨_, rest, hturn, hstart⟩
      have hzero : t.segCount = 0#32 ∧ t.malCount = 0#32 := by
        rcases ht with ⟨-, rfl⟩ | rfl <;> exact ⟨rfl, rfl⟩
      exact ⟨fun _ => .inl ⟨hnext, hp, hzero.1⟩, fun _ => .inl ⟨hnext, hp, hzero.2⟩⟩
    · exact ⟨fun hne => absurd hseg hne, fun hne => absurd hmal hne⟩
  | reset hturn => exact absurd ⟨rest, hturn⟩ hnoReset

/-! ### Free values -/

/-- A step from `s` to `t` that uses no free value, as O45's statement says it. -/
structure DrawsNothing (s t : State) : Prop where
  draws : t.draws = s.draws
  fbDraw : t.fb.draw = s.fb.draw
  ibufDraw : t.ibuf.draw = s.ibuf.draw
  hostLog : t.hostLog = s.hostLog ∨ ∃ v, heldValue s v ∧ t.hostLog = v :: s.hostLog
  segCount : t.segCount = s.segCount ∨ t.segCount = 0#32 ∨ t.segCount = s.segCount + 1#32
  malCount : t.malCount = s.malCount ∨ t.malCount = 0#32 ∨ t.malCount = s.malCount + 1#32
  noTaintedFinish : ¬ (s.taint = true ∧ s.phase = .scan ∧ t.phase = .idle)

theorem WorkMove.drawsNothing {s t : State} (h : WorkMove s t) : DrawsNothing s t where
  draws := h.draws
  fbDraw := h.fbDraw
  ibufDraw := congrArg ByteMem.draw h.ibuf
  hostLog := .inl h.hostLog
  segCount := by
    rcases h.counts with ⟨hseg, -⟩ | ⟨_, _, _, -, -, -, -, hseg, -⟩ | ⟨_, _, _, -, -, -, -, -, hseg⟩
    · exact .inl hseg
    · exact .inr (.inr hseg)
    · exact .inl hseg
  malCount := by
    rcases h.counts with ⟨-, hmal⟩ | ⟨_, _, _, -, -, -, -, -, hmal⟩ | ⟨_, _, _, -, -, -, -, hmal, -⟩
    · exact .inl hmal
    · exact .inl hmal
    · exact .inr (.inr hmal)
  noTaintedFinish := fun ⟨_, hscan, hidle⟩ => h.staysInDecode (by simp [hscan]) hidle

/-- R110: a finish without a hazard draws nothing. -/
theorem FinishOf.drawsNothing {s m : State} (h : FinishOf s m) (hclean : s.taint = false) :
    DrawsNothing s (finish m) := by
  rw [finish_of_untainted (h.taint.trans hclean)]
  exact {
    draws := h.draws
    fbDraw := congrArg ByteMem.draw h.fb
    ibufDraw := congrArg ByteMem.draw h.ibuf
    hostLog := .inl h.hostLog
    segCount := .inl h.segCount
    malCount := .inl h.malCount
    noTaintedFinish := by simp [hclean] }

/-- What the five free values of a tainted finish are used for (R111). -/
theorem FinishOf.tainted {s m : State} (h : FinishOf s m) (htaint : s.taint = true) :
    (finish m).draws = s.draws + 5 ∧ (finish m).fb = ⟨[], s.draws⟩ ∧
      (finish m).segCount = Config.freeWord (s.draws + 1) ∧
      (finish m).malCount = Config.freeWord (s.draws + 2) ∧
      (finish m).status =
        ⟨false, true, Config.freeBit (s.draws + 3), Config.freeBit (s.draws + 4)⟩ ∧
      (finish m).ibuf = s.ibuf ∧ (finish m).hostLog = s.hostLog := by
  rw [finish_of_tainted (h.taint.trans htaint)]
  simp [h.draws, h.ibuf, h.hostLog, Status.finished]

/-- A host move reads a value that the state holds or the next free value, or draws nothing. -/
theorem HostMove.draw_cases {act : HostAct} {s t : State} (h : HostMove act s t) :
    DrawsNothing s t ∨ (s.status.busy = true ∧ ∃ v, drawnValue s.draws v ∧
      t = { s with hostLog := v :: s.hostLog, draws := s.draws + 1 }) := by
  have hsamePhase {u : Prop} : ¬ (u ∧ s.phase = .scan ∧ s.phase = .idle) :=
    fun ⟨_, hscan, hidle⟩ => nomatch hscan.symm.trans hidle
  have hfromIdle {u v : Prop} (hp : s.phase = .idle) : ¬ (u ∧ s.phase = .scan ∧ v) :=
    fun ⟨_, hscan, _⟩ => nomatch hscan.symm.trans hp
  cases h with
  | read hread =>
    rcases hread with ⟨v, hheld, rfl⟩ | hdrawn
    · exact .inl ⟨rfl, rfl, rfl, .inr ⟨v, hheld, rfl⟩, .inl rfl, .inl rfl, hsamePhase⟩
    · exact .inr hdrawn
  | ignored | bufLen | ibuf | fb =>
    exact .inl ⟨rfl, rfl, rfl, .inl rfl, .inl rfl, .inl rfl, hsamePhase⟩
  | refuse hp | start hp =>
    exact .inl ⟨rfl, rfl, rfl, .inl rfl, .inr (.inl rfl), .inr (.inl rfl), hfromIdle hp⟩

theorem Move.cfg_eq {s t : State} {rest : List Turn} (h : Move s t rest) : t.cfg = s.cfg := by
  cases h with
  | srd _ hmove => exact hmove.cfg_eq
  | host _ hmove => exact hmove.cfg_eq
  | reset _ ht => exact ht ▸ rfl

/-- The four ways in which a step can use free values, the first being not at all. -/
theorem Move.draw_cases {s t : State} {rest : List Turn} (h : Move s t rest) :
    DrawsNothing { s with script := rest } t ∨
    (s.status.busy = true ∧ ∃ v, drawnValue s.draws v ∧
      t = { s with script := s.script.tail, hostLog := v :: s.hostLog, draws := s.draws + 1 }) ∨
    (finishNext s ∧ s.taint = true ∧ ∃ m, FinishOf { s with script := rest } m ∧ t = finish m) ∨
    (resetNext s ∧ t = platformReset { s with script := rest }) := by
  cases h with
  | srd hturn hmove =>
    rcases hmove.finish_or_work with ⟨m, hfinish, rfl⟩ | hwork
    · by_cases htaint : s.taint = true
      · exact .inr (.inr (.inl ⟨hfinish.finishNext hturn, htaint, m, hfinish, rfl⟩))
      · exact .inl (hfinish.drawsNothing (Bool.eq_false_iff.2 htaint))
    · exact .inl hwork.drawsNothing
  | host hturn hmove =>
    rcases hmove.draw_cases with hnothing | ⟨hbusy, v, hdrawn, rfl⟩
    · exact .inl hnothing
    · have htail : s.script.tail = rest := by rw [hturn, List.tail_cons]
      exact .inr (.inl ⟨hbusy, v, hdrawn, by rw [htail]⟩)
  | reset hturn ht => exact .inr (.inr (.inr ⟨⟨rest, hturn⟩, ht⟩))

/-- Settles O45: by the four ways; a finish with TAINT set uses the next five free values, a host read while
BUSY the next one, a reset the next two. -/
theorem configurationIsFixed : Obligations.ConfigurationIsFixed := by
  intro s t hstep
  obtain ⟨rest, hmove⟩ := move_of_step hstep
  refine ⟨hmove.cfg_eq, ?_⟩
  rcases hmove.draw_cases with hnothing | ⟨hbusy, v, hdrawn, rfl⟩ | ⟨hnext, htaint, m, hfinish, rfl⟩ |
    ⟨hreset, rfl⟩
  · obtain ⟨hdraws, hfb, hibuf, hlog, hseg, hmal, hfinish⟩ := hnothing
    exact ⟨hdraws.ge, .inl ⟨hdraws, hfb, hibuf, hlog, hseg, hmal, hfinish⟩⟩
  · exact ⟨Nat.le_succ _,
      .inr (.inl ⟨s.draws, v, le_rfl, Nat.lt_succ_self _, hbusy, hdrawn, rfl⟩)⟩
  · obtain ⟨hdraws, hfb, hseg, hmal, hstatus, hibuf, hlog⟩ := hfinish.tainted htaint
    refine ⟨hdraws ▸ Nat.le_add_right _ _, .inr (.inr (.inl ⟨_, _, _, _, _, ?_, ?_, hnext, htaint, hfb,
      hseg, hmal, hstatus, hibuf, hlog⟩))⟩
    · simp
    · simp [hdraws]
  · refine ⟨Nat.le_add_right _ 2, .inr (.inr (.inr ⟨s.draws, s.draws + 1, Nat.ne_of_lt (Nat.lt_succ_self _),
      ?_, hreset, rfl, rfl, rfl, rfl, rfl, rfl⟩))⟩
    simp [platformReset, State.resetWith]

end Sys2Proof.Machine
end

section
/-! The family of spec/10_state.md: every decode that nothing disturbs finishes, and two decodes that agree below
BUF_LEN run in lockstep, so bytes at or above it do not reach the results (R42, R52, R112). -/

namespace Sys2Proof.Machine

/-! ### The SRD alone -/

theorem step_of_script_nil {s : State} (h : s.script = []) : step s = srdStep s := by
  simp only [step, takeTurn, h]

theorem SrdMove.script_eq {s t : State} (h : SrdMove s t) : t.script = s.script := by
  cases h with
  | bufferEnd | term => exact finish_script _
  | idle | clear | clearEnd | skip | accept | reject | paint | paintEnd => rfl

/-- From the invariant the SRD always has a move. -/
theorem exists_srdMove {s : State} (h : Inv s) : ∃ t, SrdMove s t :=
  (srdStep_next h).imp fun _ => srdMove_of_srdStep

theorem SrdMove.step_eq {s t : State} (h : SrdMove s t) (hscript : s.script = []) : step s = .next t :=
  (step_of_script_nil hscript).trans h.srdStep_eq

/-! ### A decode finishes -/

/-- The bytes that the scan has still to pass, one more than the buffer has before it begins. -/
def bytesLeft (s : State) : Nat :=
  match s.phase with
  | .idle => 0
  | .clear => s.len.toNat + 1
  | .scan | .paint => s.len.toNat - s.rp.toNat

/-- The steps that the SRD has still to spend without passing a window: the clear's bytes, or the columns of
the span being painted and the step back to SCAN. -/
def stepsInPlace (s : State) : Nat :=
  match s.phase with
  | .clear => s.cfg.fbSize - s.cp
  | .paint => (s.x2 - s.l).toNat + 1
  | .idle | .scan => 0

/-- R109: a window read leaves four bytes fewer. -/
theorem bytesLeft_of_window {s t : State} (hread : WindowRead s) (hphase : t.decoding)
    (hlen : t.len = s.len) (hrp : t.rp = s.windowLatched.rp) : bytesLeft t < bytesLeft s := by
  have hadvance := rp_advance hread.inLength
  have hlength := hread.inLength
  have hs : bytesLeft s = s.len.toNat - s.rp.toNat := by simp [bytesLeft, hread.scanning]
  have ht : bytesLeft t = s.len.toNat - (s.rp.toNat + 4) := by
    rcases hphase with hp | hp <;> simp only [bytesLeft, hp, hlen, hrp, latchWindow_rp, hadvance]
  omega

/-- R112: every move of a decode that does not end it passes bytes of the buffer, or spends a step in place. -/
theorem SrdMove.measure_decreases {s t : State} (h : SrdMove s t) (hs : s.phase ≠ .idle)
    (ht : t.phase ≠ .idle) :
    bytesLeft t < bytesLeft s ∨ (bytesLeft t = bytesLeft s ∧ stepsInPlace t < stepsInPlace s) := by
  cases h with
  | idle hp => exact absurd hp hs
  | bufferEnd | term => exact absurd (finish_phase _) ht
  | skip hread | reject hread => exact .inl (bytesLeft_of_window hread (.inl hread.scanning) rfl rfl)
  | accept hread => exact .inl (bytesLeft_of_window hread (.inr rfl) rfl rfl)
  | clear hp hcp =>
    exact .inr ⟨by simp only [bytesLeft, hp], by simp only [stepsInPlace, hp]; omega⟩
  | clearEnd hp =>
    left
    simp only [bytesLeft, hp, scanBegin_phase, scanBegin_len]
    omega
  | paint hp hl =>
    exact .inr ⟨by simp only [bytesLeft, hp], by simp only [stepsInPlace, hp]; omega⟩
  | paintEnd hp =>
    exact .inr ⟨by simp only [bytesLeft, hp], by simp only [stepsInPlace, hp]; omega⟩

/-- R110: a move that ends a decode sets DONE. -/
theorem SrdMove.done_of_idle {s t : State} (h : SrdMove s t) (hs : s.phase ≠ .idle)
    (ht : t.phase = .idle) : t.status.done = true := by
  rcases h.finish_or_work with ⟨m, -, rfl⟩ | hwork
  · exact finish_done m
  · exact absurd ht (hwork.staysInDecode hs)

/-- R112, R114: the SRD alone ends every decode, with DONE. -/
theorem decode_finishes {s : State} (hinv : Inv s) (hscript : s.script = [])
    (hdone : s.phase = .idle → s.status.done = true) :
    ∃ n t, runFor n s = .next t ∧ t.phase = .idle ∧ t.status.done = true ∧ t.cfg = s.cfg := by
  by_cases hs : s.phase = .idle
  · exact ⟨0, s, runFor_zero s, hs, hdone hs, rfl⟩
  · obtain ⟨t, hmove⟩ := exists_srdMove hinv
    have hstep := hmove.step_eq hscript
    by_cases ht : t.phase = .idle
    · exact ⟨1, t, runFor_succ hstep, ht, hmove.done_of_idle hs ht, hmove.cfg_eq⟩
    · have hdecreases := hmove.measure_decreases hs ht
      obtain ⟨n, u, hrun, hu, hudone, hcfg⟩ := decode_finishes (hinv.srdMove hmove)
        (hmove.script_eq.trans hscript) fun hidle => absurd hidle ht
      exact ⟨n + 1, u, (runFor_succ hstep).trans hrun, hu, hudone, hcfg.trans hmove.cfg_eq⟩
termination_by (bytesLeft s, stepsInPlace s)
decreasing_by exact Prod.lex_def.2 hdecreases

/-! ### Two decodes in lockstep -/

/-- Two states at the same point of one decode: they agree in what the SRD will look at, IBUF below `s.LEN`,
FB, and of the internal registers those that the phase reads. -/
structure SameDecode (s₁ s₂ : State) : Prop where
  cfg : s₂.cfg = s₁.cfg
  phase : s₂.phase = s₁.phase
  status : s₂.status = s₁.status
  segCount : s₂.segCount = s₁.segCount
  malCount : s₂.malCount = s₁.malCount
  len : s₂.len = s₁.len
  clean₁ : s₁.taint = false
  clean₂ : s₂.taint = false
  cp : s₁.phase = .clear → s₂.cp = s₁.cp
  rp : s₁.decoding → s₂.rp = s₁.rp
  span : s₁.phase = .paint → s₂.y = s₁.y ∧ s₂.x2 = s₁.x2 ∧ s₂.l = s₁.l
  ibuf : ∀ a, a < s₁.len.toNat → s₁.ibuf.read a = s₂.ibuf.read a
  fb : ∀ a, a < s₁.cfg.fbSize → s₁.fb.read a = s₂.fb.read a

/-- The same write to two memories that agree keeps their agreement. -/
theorem ByteMem.write_agree {m₁ m₂ : ByteMem} {size : Nat}
    (h : ∀ a, a < size → m₁.read a = m₂.read a) (off : Nat) (v : Byte) :
    ∀ a, a < size → (m₁.write off v).read a = (m₂.write off v).read a := by
  intro a ha
  rw [ByteMem.read_write, ByteMem.read_write, h a ha]

theorem SameDecode.windowRead {s₁ s₂ : State} (h : SameDecode s₁ s₂) (hread : WindowRead s₁) :
    WindowRead s₂ := by
  have hrp := h.rp (.inl hread.scanning)
  exact ⟨h.phase.trans hread.scanning, by rw [hrp, h.len]; exact hread.inLength,
    by rw [hrp, h.cfg]; exact hread.inSpace⟩

/-- R52: a window lies below `s.LEN`, so both decodes read the same one. -/
theorem SameDecode.windowNext_eq {s₁ s₂ : State} (h : SameDecode s₁ s₂) (hread : WindowRead s₁) :
    windowNext s₂ = windowNext s₁ := by
  have hlen := hread.inLength
  rw [windowNext, windowNext, h.rp (.inl hread.scanning), windowAt, windowAt, h.ibuf _ (by omega),
    h.ibuf _ (by omega), h.ibuf _ (by omega), h.ibuf _ (by omega)]

theorem SameDecode.spanAt {s₁ s₂ : State} (h : SameDecode s₁ s₂) (hread : WindowRead s₁) {y x1 x2 : Int}
    (hspan : SpanAt s₁ y x1 x2) : SpanAt s₂ y x1 x2 := by
  unfold SpanAt
  rw [h.windowNext_eq hread, h.cfg]
  exact hspan

theorem SameDecode.windowLatched {s₁ s₂ : State} (h : SameDecode s₁ s₂) (hread : WindowRead s₁) :
    SameDecode s₁.windowLatched s₂.windowLatched :=
  { h with rp := fun _ => congrArg (· + _) (h.rp (.inl hread.scanning)) }

/-- R110: without a hazard both finishes keep the results. -/
theorem SameDecode.finish {s₁ s₂ : State} (h : SameDecode s₁ s₂) : SameDecode (finish s₁) (finish s₂) := by
  rw [finish_of_untainted h.clean₁, finish_of_untainted h.clean₂]
  exact { h with
    phase := rfl
    status := congrArg Status.finished h.status
    cp := by simp
    rp := by simp
    span := by simp }

/-- One move of two decodes in lockstep. -/
theorem SameDecode.srdMove {s₁ s₂ t₁ : State} (h : SameDecode s₁ s₂) (hmove : SrdMove s₁ t₁) :
    ∃ t₂, SrdMove s₂ t₂ ∧ SameDecode t₁ t₂ := by
  cases hmove with
  | idle hp => exact ⟨s₂, .idle (h.phase.trans hp), h⟩
  | clear hp hcp =>
    have hcpEq := h.cp hp
    refine ⟨_, .clear (h.phase.trans hp) (by rwa [hcpEq, h.cfg]), ?_⟩
    rw [hcpEq]
    exact { h with
      cp := fun _ => rfl
      fb := ByteMem.write_agree h.fb _ _ }
  | clearEnd hp hcp =>
    exact ⟨_, .clearEnd (h.phase.trans hp) (by rwa [h.cp hp, h.cfg]), { h with
      phase := rfl
      cp := by simp
      rp := fun _ => rfl
      span := by simp }⟩
  | bufferEnd hp hend =>
    exact ⟨_, .bufferEnd (h.phase.trans hp) (by rwa [h.rp (.inl hp), h.len]), h.finish⟩
  | term hread hterm =>
    have hlatched : SameDecode s₁.termLatched s₂.termLatched :=
      { h.windowLatched hread with
        status := congrArg (fun st : Status => { st with termSeen := true }) h.status }
    exact ⟨_, .term (h.windowRead hread) ((h.windowNext_eq hread).trans hterm), hlatched.finish⟩
  | skip hread hskip =>
    exact ⟨_, .skip (h.windowRead hread) (by rwa [h.windowNext_eq hread]), h.windowLatched hread⟩
  | accept hread hspan hvalid =>
    exact ⟨_, .accept (h.windowRead hread) (h.spanAt hread hspan) (by rwa [h.cfg]),
      { h.windowLatched hread with
        phase := rfl
        segCount := congrArg (· + 1#32) h.segCount
        cp := by simp
        rp := fun _ => congrArg (· + _) (h.rp (.inl hread.scanning))
        span := fun _ => ⟨rfl, rfl, rfl⟩ }⟩
  | reject hread hspan hvalid =>
    exact ⟨_, .reject (h.windowRead hread) (h.spanAt hread hspan) (by rwa [h.cfg]),
      { h.windowLatched hread with
        malCount := congrArg (· + 1#32) h.malCount
        span := by simp [hread.scanning] }⟩
  | paint hp hl hlow hhigh =>
    obtain ⟨hy, hx2, hlEq⟩ := h.span hp
    have hoffset : pixelOffset s₂.cfg s₂.y s₂.l = pixelOffset s₁.cfg s₁.y s₁.l := by
      rw [h.cfg, hy, hlEq]
    refine ⟨_, .paint (h.phase.trans hp) (by rwa [hlEq, hx2]) (by rwa [hoffset])
      (by rwa [hoffset, h.cfg]), ?_⟩
    rw [hoffset]
    exact { h with
      span := fun _ => ⟨hy, hx2, congrArg (· + 1) hlEq⟩
      fb := ByteMem.write_agree h.fb _ _ }
  | paintEnd hp hl =>
    obtain ⟨-, hx2, hlEq⟩ := h.span hp
    exact ⟨_, .paintEnd (h.phase.trans hp) (by rwa [hlEq, hx2]), { h with
      phase := rfl
      cp := by simp
      rp := fun _ => h.rp (.inr hp)
      span := by simp }⟩

/-- Two decodes in lockstep stay so for as long as the SRD runs alone. -/
theorem SameDecode.runFor {n : Nat} {s₁ s₂ t₁ : State} (hinv : Inv s₁) (h : SameDecode s₁ s₂)
    (hscript₁ : s₁.script = []) (hscript₂ : s₂.script = []) (hrun : runFor n s₁ = .next t₁) :
    ∃ t₂, runFor n s₂ = .next t₂ ∧ SameDecode t₁ t₂ := by
  induction n generalizing s₁ s₂ with
  | zero =>
    obtain rfl : s₁ = t₁ := by simpa using hrun
    exact ⟨s₂, rfl, h⟩
  | succ n ih =>
    obtain ⟨u₁, hmove₁⟩ := exists_srdMove hinv
    obtain ⟨u₂, hmove₂, hu⟩ := h.srdMove hmove₁
    rw [runFor_succ (hmove₁.step_eq hscript₁)] at hrun
    rw [runFor_succ (hmove₂.step_eq hscript₂)]
    exact ih (hinv.srdMove hmove₁) hu (hmove₁.script_eq.trans hscript₁)
      (hmove₂.script_eq.trans hscript₂) hrun

/-! ### The START that begins them -/

/-- What an accepted START leaves, by the header check (R100, R102, R103). -/
def State.afterStart (s : State) : State :=
  if 2 ≤ s.bufLen.toNat ∧ s.ibuf.read 1 = MARKER then s.clearBegun else s.startRefused

/-- R100: from an idle state the host's START is accepted; the turns to come are then the SRD's alone. -/
theorem step_withStart {s : State} (hinv : Inv s) (hidle : s.phase = .idle) :
    step (withStart s) = .next { s with script := [] }.afterStart := by
  let s' := { s with script := [] }
  have hstart : step (withStart s) = headerCheck (beginDecode s') :=
    (step_writeReg .ctrl (v := 1#32) (rest := []) rfl rfl).trans (if_pos hidle)
  obtain ⟨t, ht⟩ := headerCheck_next (s := beginDecode s') hinv.bufLenLegal
  rw [hstart, ht, State.afterStart]
  rcases headerCheck_cases ht with ⟨hbad, rfl⟩ | ⟨hlen, hmarker, rfl⟩
  · rw [if_neg fun ⟨hlen, hmarker⟩ => hbad.elim (Nat.not_lt.2 hlen) fun hne => hne hmarker,
      unknownMessage_beginDecode]
  · rw [if_pos ⟨hlen, hmarker⟩]

theorem Inv.afterStart {s : State} (h : Inv s) : Inv s.afterStart := by
  unfold State.afterStart
  split
  case isTrue hheader => exact h.clearBegun hheader.1
  case isFalse => exact h.startRefused

theorem afterStart_script (s : State) : s.afterStart.script = s.script := by
  unfold State.afterStart
  split <;> rfl

theorem afterStart_cfg (s : State) : s.afterStart.cfg = s.cfg := by
  unfold State.afterStart
  split <;> rfl

/-- R103: a START that does not begin a clear has finished. -/
theorem afterStart_done {s : State} (h : s.afterStart.phase = .idle) : s.afterStart.status.done = true := by
  unfold State.afterStart at h ⊢
  split
  case isTrue hheader => simp [hheader] at h
  case isFalse => rfl

/-- R42: in states that agree below BUF_LEN an accepted START begins the same decode: the header check reads
byte 1 only of a buffer that has it. -/
theorem SameDecode.of_start {s₁ s₂ : State} (hcfg : s₂.cfg = s₁.cfg) (hlen : s₂.bufLen = s₁.bufLen)
    (hibuf : ∀ a, a < s₁.bufLen.toNat → s₁.ibuf.read a = s₂.ibuf.read a)
    (hfb : ∀ a, a < s₁.cfg.fbSize → s₁.fb.read a = s₂.fb.read a) :
    SameDecode s₁.afterStart s₂.afterStart := by
  have hheader : (2 ≤ s₂.bufLen.toNat ∧ s₂.ibuf.read 1 = MARKER) ↔
      (2 ≤ s₁.bufLen.toNat ∧ s₁.ibuf.read 1 = MARKER) := by
    rw [hlen]
    exact and_congr_right fun h => by rw [hibuf 1 h]
  unfold State.afterStart
  simp only [hheader]
  split
  · exact ⟨hcfg, rfl, rfl, rfl, rfl, hlen, rfl, rfl, fun _ => rfl, by simp, by simp, hibuf, hfb⟩
  · exact ⟨hcfg, rfl, rfl, rfl, rfl, hlen, rfl, rfl, by simp, by simp, by simp, hibuf, hfb⟩

/-- Two finished decodes at the same point have the same results. -/
theorem SameDecode.agree {s₁ s₂ : State} (h : SameDecode s₁ s₂) :
    (resultOf s₁).agree s₁.cfg (resultOf s₂) :=
  ⟨h.fb, congrArg BitVec.toNat h.segCount.symm, congrArg BitVec.toNat h.malCount.symm,
    congrArg Status.unknownMsg h.status.symm, congrArg Status.termSeen h.status.symm⟩

/-- Settles O55: the first decode finishes, and the second is in lockstep with it from its START on. -/
theorem bytesBeyondLengthDoNotMatter : Obligations.BytesBeyondLengthDoNotMatter := by
  intro s₁ s₂ hinv₁ hinv₂ hidle₁ hidle₂ hcfg hlen hibuf hfb
  let u₁ := { s₁ with script := [] }.afterStart
  let u₂ := { s₂ with script := [] }.afterStart
  have hsame : SameDecode u₁ u₂ := .of_start hcfg.symm hlen.symm hibuf hfb
  have hinv : Inv u₁ := (hinv₁.withScript []).afterStart
  have hscript₁ : u₁.script = [] := afterStart_script _
  obtain ⟨n, t₁, hrun₁, ht₁, hdone₁, hcfg₁⟩ := decode_finishes hinv hscript₁ afterStart_done
  obtain ⟨t₂, hrun₂, ht⟩ := hsame.runFor hinv hscript₁ (afterStart_script _) hrun₁
  have hcfgStart : t₁.cfg = s₁.cfg := hcfg₁.trans (afterStart_cfg _)
  exact ⟨n, t₁, n, t₂, (runFor_succ (step_withStart hinv₁ hidle₁)).trans hrun₁,
    (runFor_succ (step_withStart hinv₂ hidle₂)).trans hrun₂, hdone₁,
    by rw [ht.status]; exact hdone₁, ht₁, ht.phase.trans ht₁, hcfgStart ▸ ht.agree⟩

end Sys2Proof.Machine
end

section
/-! The family of spec/20_memory.md, its ground for whole decodes: what a record's four bytes decode to, and the
reference function of R113 a window at a time in terms of the decoded record. -/

namespace Sys2Proof

/-! ### A record by its bytes -/

/-- R73, R74: the field MK of a record is the low five bits of its flags. -/
theorem fieldMK_word (r : Record) : fieldMK r.word = r.flags.extractLsb' 0 5 := by
  apply BitVec.eq_of_getLsbD_eq
  intro i hi
  simp only [fieldMK, Record.word, BitVec.getLsbD_append, BitVec.getLsbD_extractLsb']
  interval_cases i <;> simp

theorem fieldMK_word_eq_zero_iff (r : Record) : fieldMK r.word = 0#5 ↔ r.flags &&& MK_MASK = 0#8 := by
  have hflags : ∀ f : Byte, f.extractLsb' 0 5 = 0#5 ↔ f &&& MK_MASK = 0#8 := by decide
  rw [fieldMK_word, hflags]

/-- R77: the terminator is the record of four zero bytes. -/
theorem word_eq_zero_iff (r : Record) :
    r.word = 0#32 ↔ r.yByte = 0#8 ∧ r.x1Byte = 0#8 ∧ r.x2Byte = 0#8 ∧ r.flags = 0#8 := by
  constructor
  · intro h
    have hr : r = recordOfWord 0#32 := by rw [← h, word_recordOfWord]
    exact hr ▸ by decide
  · obtain ⟨y, x1, x2, f⟩ := r
    rintro ⟨rfl, rfl, rfl, rfl⟩
    decide

theorem decodeWord_zero : decodeWord 0#32 = .term := by decide

/-- R79, rows 2 to 6: a word with a bit of MK set is a SKIP. -/
theorem decodeWord_cls_of_fieldMK_ne {w : Word} (h : fieldMK w ≠ 0#5) : (decodeWord w).cls = .skip := by
  have hrows : ∀ mk : BitVec 5, mk ≠ 0#5 → ¬ mk &&& 0b00001#5 = 0b00001#5 →
      ¬ mk &&& 0b00011#5 = 0b00010#5 → ¬ mk &&& 0b00111#5 = 0b00100#5 →
      ¬ mk &&& 0b01111#5 = 0b01000#5 → mk &&& 0b11111#5 = 0b10000#5 := by decide
  have hw : w ≠ 0#32 := by
    rintro rfl
    exact h (by decide)
  rw [decodeWord_by_fieldMK, if_neg hw]
  split_ifs with h2 h3 h4 h5 h6
  case neg => exact absurd (hrows _ h h2 h3 h4 h5) h6
  all_goals rfl

/-- R79, row 7: any other word with `MK = 0` is a SPAN of its fields. -/
theorem decodeWord_of_fieldMK_eq {w : Word} (hw : w ≠ 0#32) (h : fieldMK w = 0#5) :
    decodeWord w = .span (fieldEX1 w) (fieldEX2 w) (fieldEY w) (w.extractLsb' 16 8) (w.extractLsb' 8 8)
      (w.extractLsb' 0 8) := by
  rw [decodeWord_by_fieldMK, if_neg hw, h]
  rfl

/-- R73, R74: the extension bits of a record are bits 7, 6 and 5 of its flags. -/
theorem fieldExt_word (r : Record) :
    fieldEX1 r.word = r.flags.getLsbD 7 ∧ fieldEX2 r.word = r.flags.getLsbD 6 ∧
      fieldEY r.word = r.flags.getLsbD 5 := by
  simp only [fieldEX1, fieldEX2, fieldEY, Record.word, BitVec.getLsbD_append]
  exact ⟨rfl, rfl, rfl⟩

/-- The SPAN that a record is by its bytes, where it is one (R74, R79). -/
def Record.asSpan (r : Record) : Instr :=
  .span (r.flags.getLsbD 7) (r.flags.getLsbD 6) (r.flags.getLsbD 5) r.x2Byte r.x1Byte r.yByte

/-- What a record decodes to, by the tests of R113's loop on its bytes. -/
theorem decodeRecord_cases (r : Record) :
    (decodeRecord r = .term ∧ r.yByte = 0#8 ∧ r.x1Byte = 0#8 ∧ r.x2Byte = 0#8 ∧ r.flags = 0#8) ∨
    ((decodeRecord r).cls = .skip ∧ r.flags &&& MK_MASK ≠ 0#8) ∨
    (decodeRecord r = r.asSpan ∧ r.flags &&& MK_MASK = 0#8 ∧
      ¬ (r.yByte = 0#8 ∧ r.x1Byte = 0#8 ∧ r.x2Byte = 0#8 ∧ r.flags = 0#8)) := by
  by_cases hw : r.word = 0#32
  · exact .inl ⟨by rw [decodeRecord, hw, decodeWord_zero], (word_eq_zero_iff r).1 hw⟩
  by_cases hmk : fieldMK r.word = 0#5
  · have hbytes : recordOfWord r.word = r := word_recordOfWord r
    obtain ⟨hex1, hex2, hey⟩ := fieldExt_word r
    have hspan : decodeRecord r = r.asSpan := by
      rw [decodeRecord, decodeWord_of_fieldMK_eq hw hmk, hex1, hex2, hey, Record.asSpan]
      exact congrArg (fun b : Record => Instr.span _ _ _ b.x2Byte b.x1Byte b.yByte) hbytes
    exact .inr (.inr ⟨hspan, (fieldMK_word_eq_zero_iff r).1 hmk, mt (word_eq_zero_iff r).2 hw⟩)
  · exact .inr (.inl ⟨decodeWord_cls_of_fieldMK_ne hmk, mt (fieldMK_word_eq_zero_iff r).2 hmk⟩)

end Sys2Proof

namespace Sys2Proof.Machine

/-! ### The reference function, window by window -/

/-- What a SPAN with these adjusted coordinates does to R113's accumulators (R155 to R158). -/
def countSpan (c : Config) (y x1 x2 : Int) (acc : DecodeResult) : DecodeResult :=
  if spanValid c y x1 x2 then
    { acc with seg := acc.seg + 1, fb := refPaint c y x1 acc.fb (x2 - x1).toNat }
  else { acc with mal := acc.mal + 1 }

/-- R113's loop at a window that is neither all zero nor marked, by its bytes. -/
theorem refScan_spanBytes {c : Config} {buf : Nat → Byte} {len p : Nat} (k : Nat) (acc : DecodeResult)
    (h : p + 4 ≤ len)
    (hz : ¬ (buf p = 0#8 ∧ buf (p + 1) = 0#8 ∧ buf (p + 2) = 0#8 ∧ buf (p + 3) = 0#8))
    (hm : buf (p + 3) &&& MK_MASK = 0#8) :
    refScan c buf len (k + 1) p acc = refScan c buf len k (p + 4)
      (countSpan c (adjustedY c (buf p) ((buf (p + 3)).getLsbD 5))
        (adjustedX c (buf (p + 1)) ((buf (p + 3)).getLsbD 7))
        (adjustedX c (buf (p + 2)) ((buf (p + 3)).getLsbD 6)) acc) := by
  conv_lhs => unfold refScan
  rw [if_pos h]
  simp only [refCoords_eq_adjusted, refValid_iff_spanValid, countSpan]
  rw [if_neg hz, if_neg (not_not.2 hm)]
  split <;> rfl

section Window
variable {c : Config} {buf : Nat → Byte} {len p : Nat} (k : Nat) (acc : DecodeResult)
  (hlen : p + 4 ≤ len)
include hlen

theorem refScan_of_term (hi : decodeRecord (windowAt buf p) = .term) :
    refScan c buf len (k + 1) p acc = { acc with term := true } := by
  rcases decodeRecord_cases (windowAt buf p) with ⟨-, hzero⟩ | ⟨hskip, -⟩ | ⟨hspan, -⟩
  · exact refScan_terminator k acc hlen hzero
  · rw [hi] at hskip
    cases hskip
  · rw [hi] at hspan
    cases hspan

theorem refScan_of_skip (hi : (decodeRecord (windowAt buf p)).cls = .skip) :
    refScan c buf len (k + 1) p acc = refScan c buf len k (p + 4) acc := by
  rcases decodeRecord_cases (windowAt buf p) with ⟨hterm, -⟩ | ⟨-, hmk⟩ | ⟨hspan, -⟩
  · rw [hterm] at hi
    cases hi
  · exact refScan_marker k acc hlen hmk
  · rw [hspan] at hi
    cases hi

theorem refScan_of_span {ex1 ex2 ey : Bool} {x2b x1b yb : Byte}
    (hi : decodeRecord (windowAt buf p) = .span ex1 ex2 ey x2b x1b yb) :
    refScan c buf len (k + 1) p acc = refScan c buf len k (p + 4)
      (countSpan c (adjustedY c yb ey) (adjustedX c x1b ex1) (adjustedX c x2b ex2) acc) := by
  rcases decodeRecord_cases (windowAt buf p) with ⟨hterm, -⟩ | ⟨hskip, -⟩ | ⟨hspan, hmk, hzero⟩
  · rw [hi] at hterm
    cases hterm
  · rw [hi] at hskip
    cases hskip
  · rw [hi] at hspan
    cases hspan
    exact refScan_spanBytes k acc hlen hzero hmk

end Window

/-- A bound of one window more than the buffer has from `p` on changes nothing. -/
theorem refScan_bound (c : Config) (buf : Nat → Byte) (len : Nat) : ∀ (k p : Nat) (acc : DecodeResult),
    len < p + 4 * (k + 1) → refScan c buf len (k + 1) p acc = refScan c buf len k p acc
  | 0, p, acc, h => by rw [refScan_end _ _ (by omega), refScan_end _ _ (by omega)]
  | k + 1, p, acc, h => by
    by_cases hp : p + 4 ≤ len
    · have hrest : ∀ acc', refScan c buf len (k + 1) (p + 4) acc' = refScan c buf len k (p + 4) acc' :=
        fun acc' => refScan_bound c buf len k (p + 4) acc' (by omega)
      rcases decodeRecord_cases (windowAt buf p) with ⟨hi, -⟩ | ⟨hi, -⟩ | ⟨hi, -⟩
      · rw [refScan_of_term _ _ hp hi, refScan_of_term _ _ hp hi]
      · rw [refScan_of_skip _ _ hp hi, refScan_of_skip _ _ hp hi, hrest]
      · rw [refScan_of_span _ _ hp hi, refScan_of_span _ _ hp hi, hrest]
    · rw [refScan_end _ _ (by omega), refScan_end _ _ (by omega)]

theorem countSpan_agree {c : Config} {a b : DecodeResult} (h : a.agree c b) (y x1 x2 : Int) :
    (countSpan c y x1 x2 a).agree c (countSpan c y x1 x2 b) := by
  obtain ⟨hfb, hseg, hmal, hunk, hterm⟩ := h
  unfold countSpan
  split
  · exact ⟨fun x hx => refPaint_congr _ _ _ _ (hfb x hx), congrArg (· + 1) hseg, hmal, hunk, hterm⟩
  · exact ⟨hfb, hseg, congrArg (· + 1) hmal, hunk, hterm⟩

/-- The scan of one buffer keeps the agreement of what has been decoded before it. -/
theorem refScan_agree (c : Config) (buf : Nat → Byte) (len : Nat) : ∀ (k p : Nat) {a b : DecodeResult},
    a.agree c b → (refScan c buf len k p a).agree c (refScan c buf len k p b)
  | 0, _, _, _, h => h
  | k + 1, p, a, b, h => by
    by_cases hp : p + 4 ≤ len
    · rcases decodeRecord_cases (windowAt buf p) with ⟨hi, -⟩ | ⟨hi, -⟩ | ⟨hi, -⟩
      · obtain ⟨hfb, hseg, hmal, hunk, -⟩ := h
        rw [refScan_of_term _ _ hp hi, refScan_of_term _ _ hp hi]
        exact ⟨hfb, hseg, hmal, hunk, rfl⟩
      · rw [refScan_of_skip _ _ hp hi, refScan_of_skip _ _ hp hi]
        exact refScan_agree c buf len k (p + 4) h
      · rw [refScan_of_span _ _ hp hi, refScan_of_span _ _ hp hi]
        exact refScan_agree c buf len k (p + 4) (countSpan_agree h _ _ _)
    · rw [refScan_end _ _ (by omega), refScan_end _ _ (by omega)]
      exact h

end Sys2Proof.Machine
end

section
/-! The family of spec/20_memory.md: every step of a decode keeps what the reference function reaches from there
(R62, R113, R209). -/

namespace Sys2Proof.Machine

/-! ### The outcome, phase by phase -/

theorem DecodeResult.agree.of_eq {c : Config} {a b : DecodeResult} (h : a = b) : a.agree c b :=
  h ▸ DecodeResult.agree_refl c a

/-- What R113's scan of the latched buffer reaches from offset `p` on, after `acc`. -/
abbrev State.scanFrom (s : State) (p : Nat) (acc : DecodeResult) : DecodeResult :=
  refScan s.cfg s.ibuf.read s.len.toNat (windowCount s.len.toNat) p acc

/-- The results with the rest of the span being painted (R158). -/
abbrev State.painted (s : State) : DecodeResult :=
  { resultOf s with fb := refPaint s.cfg s.y s.l s.fb.read (s.x2 - s.l).toNat }

section Phase
variable {s : State}

theorem outcomeOf_of_idle (h : s.phase = .idle) : outcomeOf s = resultOf s := by
  simp only [outcomeOf, h]

theorem outcomeOf_of_clear (h : s.phase = .clear) : outcomeOf s = s.scanFrom 2 refStart := by
  simp only [outcomeOf, h]

theorem outcomeOf_of_scan (h : s.phase = .scan) : outcomeOf s = s.scanFrom s.rp.toNat (resultOf s) := by
  simp only [outcomeOf, h]

theorem outcomeOf_of_paint (h : s.phase = .paint) : outcomeOf s = s.scanFrom s.rp.toNat s.painted := by
  simp only [outcomeOf, h]

end Phase

/-! ### The SRD's moves -/

/-- R105, R106: at the end of the clear the results are those that R113's loop begins with. -/
theorem resultOf_agree_refStart {s : State} (hinv : Inv s) (hframe : FrameInv s) (hphase : s.phase = .clear)
    (hcp : s.cfg.fbSize ≤ s.cp) (hclean : s.taint = false) : (resultOf s).agree s.cfg refStart := by
  obtain ⟨-, hseg, hmal⟩ := hinv.clearing hphase
  obtain ⟨hunk, hterm⟩ := hinv.busyFlags (hinv.busyIff.2 (by simp [hphase]))
  exact ⟨fun a ha => hframe.cleared hphase hclean a (Nat.lt_of_lt_of_le ha hcp),
    congrArg BitVec.toNat hseg, congrArg BitVec.toNat hmal, hunk, hterm⟩

/-- R33, R112: where a window is read, R113's loop has a turn left, and enough turns for the windows after
it. -/
theorem windowCount_of_windowRead {s : State} (hinv : Inv s) (hread : WindowRead s) :
    ∃ k, windowCount s.len.toNat = k + 1 ∧ s.len.toNat < s.rp.toNat + 4 + 4 * (k + 1) := by
  obtain ⟨haligned, -⟩ := hinv.rpAligned (.inl hread.scanning)
  have hlen := hread.inLength
  exact ⟨(s.len.toNat - 2) / 4 - 1, by unfold windowCount; omega, by omega⟩

/-- A window whose turn of R113's loop goes on takes the scan to the next window. -/
theorem scanFrom_next_window {s : State} (hinv : Inv s) (hread : WindowRead s) {acc acc' : DecodeResult}
    (hturn : ∀ k, refScan s.cfg s.ibuf.read s.len.toNat (k + 1) s.rp.toNat acc =
      refScan s.cfg s.ibuf.read s.len.toNat k (s.rp.toNat + 4) acc') :
    s.scanFrom s.rp.toNat acc = s.scanFrom s.windowLatched.rp.toNat acc' := by
  obtain ⟨k, hcount, hbound⟩ := windowCount_of_windowRead hinv hread
  rw [State.scanFrom, State.scanFrom, hcount, hturn, latchWindow_rp, rp_advance hread.inLength,
    refScan_bound _ _ _ _ _ _ hbound]

/-- R107, R134: a SKIP leaves the scan's results as they are. -/
theorem scanFrom_of_skip {s : State} (hinv : Inv s) (hread : WindowRead s)
    (hskip : (windowNext s).cls = .skip) (acc : DecodeResult) :
    s.scanFrom s.rp.toNat acc = s.scanFrom s.windowLatched.rp.toNat acc :=
  scanFrom_next_window hinv hread fun k => refScan_of_skip k acc hread.inLength hskip

/-- R150: a SPAN is counted by its coordinates. -/
theorem scanFrom_of_span {s : State} (hinv : Inv s) (hread : WindowRead s) {y x1 x2 : Int}
    (hspan : SpanAt s y x1 x2) (acc : DecodeResult) :
    s.scanFrom s.rp.toNat acc = s.scanFrom s.windowLatched.rp.toNat (countSpan s.cfg y x1 x2 acc) := by
  obtain ⟨ex1, ex2, ey, x2b, x1b, yb, hi, rfl, rfl, rfl⟩ := hspan
  exact scanFrom_next_window hinv hread fun k => refScan_of_span k acc hread.inLength hi

/-- R131: at a TERM the scan ends. -/
theorem scanFrom_of_term {s : State} (hinv : Inv s) (hread : WindowRead s) (hterm : windowNext s = .term)
    (acc : DecodeResult) : s.scanFrom s.rp.toNat acc = { acc with term := true } := by
  obtain ⟨k, hcount, -⟩ := windowCount_of_windowRead hinv hread
  rw [State.scanFrom, hcount]
  exact refScan_of_term k acc hread.inLength hterm

theorem toNat_add_one_of_lt {c n : Word} {m : Nat} (h : c.toNat + m < (n.toNat - 2) / 4) :
    (c + 1#32).toNat = c.toNat + 1 := by
  have := n.isLt
  simp only [BitVec.toNat_add, BitVec.toNat_ofNat]
  omega

/-- R11, R157: SEG_COUNT does not wrap, so an accepted SPAN counts as in R113. -/
theorem painted_acceptSpan {s : State} (hinv : Inv s) (hread : WindowRead s) {y x1 x2 : Int}
    (hvalid : spanValid s.cfg y x1 x2 = true) :
    (acceptSpan (setCoords y x1 x2 s.windowLatched)).painted = countSpan s.cfg y x1 x2 (resultOf s) := by
  have hseg : (s.segCount + 1#32).toNat = s.segCount.toNat + 1 :=
    toNat_add_one_of_lt (count_room hinv hread)
  rw [countSpan, if_pos hvalid]
  simp [resultOf, hseg]

/-- R11, R156: MAL_COUNT does not wrap either. -/
theorem resultOf_rejectSpan {s : State} (hinv : Inv s) (hread : WindowRead s) {y x1 x2 : Int}
    (hvalid : spanValid s.cfg y x1 x2 = false) :
    resultOf (rejectSpan (setCoords y x1 x2 s.windowLatched)) = countSpan s.cfg y x1 x2 (resultOf s) := by
  have hmal : (s.malCount + 1#32).toNat = s.malCount.toNat + 1 :=
    toNat_add_one_of_lt (Nat.add_comm .. ▸ count_room hinv hread)
  rw [countSpan, if_neg (by simp [hvalid])]
  simp [resultOf, hmal]

/-- R158: one column painted by the machine is one turn of R113's painter. -/
theorem refPaint_write {c : Config} {y l x2 : Int} (hl : l < x2) (hlow : 0 ≤ pixelOffset c y l)
    (m : ByteMem) :
    refPaint c y (l + 1) (m.write (pixelOffset c y l).toNat PIX_ON).read (x2 - (l + 1)).toNat =
      refPaint c y l m.read (x2 - l).toNat := by
  have hcolumns : (x2 - l).toNat = (x2 - (l + 1)).toNat + 1 := by omega
  have hbytes : (m.write (pixelOffset c y l).toNat PIX_ON).read =
      fun a : Nat => if (a : Int) = y * (c.fbW : Int) + l then PIX_ON else m.read a := by
    funext a
    have hoffset : a = (pixelOffset c y l).toNat ↔ (a : Int) = pixelOffset c y l := by omega
    rw [ByteMem.read_write]
    exact if_congr hoffset rfl rfl
  rw [hcolumns, hbytes, refPaint]

/-- R62: a move of the SRD keeps the outcome. All but the end of the clear keep it exactly; there FB is known to
be clear below FB_SIZE alone, and the results agree. -/
theorem SrdMove.outcome_agree {s t : State} (h : SrdMove s t) (hinv : Inv s) (hframe : FrameInv s)
    (hbusy : s.phase ≠ .idle) (hclean : s.taint = false) : (outcomeOf t).agree s.cfg (outcomeOf s) := by
  cases h with
  | idle hp => exact absurd hp hbusy
  | clear hp =>
    have hs : outcomeOf s = s.scanFrom 2 refStart := outcomeOf_of_clear hp
    refine .of_eq ((outcomeOf_of_clear ?_).trans hs.symm)
    exact hp
  | clearEnd hp hcp =>
    rw [outcomeOf_of_clear hp, outcomeOf_of_scan rfl]
    exact refScan_agree _ _ _ _ _ (resultOf_agree_refStart hinv hframe hp hcp hclean)
  | bufferEnd hp hend =>
    have hs : outcomeOf s = resultOf s := (outcomeOf_of_scan hp).trans (refScan_end _ _ hend)
    rw [hs, outcomeOf_of_idle (finish_phase s)]
    exact .of_eq (resultOf_finish s.status hclean)
  | term hread hterm =>
    have hs : outcomeOf s = { resultOf s with term := true } :=
      (outcomeOf_of_scan hread.scanning).trans (scanFrom_of_term hinv hread hterm _)
    rw [hs, outcomeOf_of_idle (finish_phase _)]
    exact .of_eq (resultOf_finish (s := s.windowLatched) _ hclean)
  | skip hread hskip =>
    have hs : outcomeOf s = s.scanFrom s.windowLatched.rp.toNat (resultOf s) :=
      (outcomeOf_of_scan hread.scanning).trans (scanFrom_of_skip hinv hread hskip _)
    refine .of_eq ((outcomeOf_of_scan ?_).trans hs.symm)
    exact hread.scanning
  | accept hread hspan hvalid =>
    have hs := (outcomeOf_of_scan hread.scanning).trans (scanFrom_of_span hinv hread hspan _)
    rw [hs, outcomeOf_of_paint rfl, painted_acceptSpan hinv hread hvalid]
    exact .of_eq rfl
  | @reject y x1 x2 hread hspan hvalid =>
    have hs := (outcomeOf_of_scan hread.scanning).trans (scanFrom_of_span hinv hread hspan _)
    have ht := outcomeOf_of_scan (s := rejectSpan (setCoords y x1 x2 s.windowLatched)) hread.scanning
    rw [hs, ht, resultOf_rejectSpan hinv hread hvalid]
    exact .of_eq rfl
  | paint hp hl hlow =>
    have hpainted := refPaint_write hl hlow s.fb
    have hs : outcomeOf s = s.scanFrom s.rp.toNat s.painted := outcomeOf_of_paint hp
    rw [State.painted, ← hpainted] at hs
    refine .of_eq ((outcomeOf_of_paint ?_).trans hs.symm)
    exact hp
  | paintEnd hp hl =>
    have hnone : (s.x2 - s.l).toNat = 0 := Int.toNat_of_nonpos (Int.sub_nonpos_of_le hl)
    have hs : outcomeOf s = s.scanFrom s.rp.toNat s.painted := outcomeOf_of_paint hp
    rw [State.painted, hnone] at hs
    exact .of_eq ((outcomeOf_of_scan rfl).trans hs.symm)

/-! ### The system's moves -/

/-- R206, R207: during a decode a host move sets TAINT or leaves all that the outcome looks at. -/
theorem HostMove.outcome_eq {act : HostAct} {s t : State} (h : HostMove act s t) (hinv : Inv s)
    (hbusy : s.phase ≠ .idle) (hclean : t.taint = false) : outcomeOf t = outcomeOf s := by
  have hnoHazard : (hazard s).taint ≠ false := by simp [hinv.busyIff.2 hbusy]
  cases h with
  | read hread =>
    obtain ⟨log, n, rfl⟩ := readLeaves_frame hread
    rfl
  | ignored => rfl
  | bufLen | ibuf | fb => exact absurd hclean hnoHazard
  | refuse hp | start hp => exact absurd hp hbusy

/-- What a move of the SRD never writes (R29, R34, R39, R52). -/
structure InputKept (s t : State) : Prop where
  ibuf : t.ibuf = s.ibuf
  bufLen : t.bufLen = s.bufLen
  len : t.len = s.len
  taint : t.taint = s.taint
  hostLog : t.hostLog = s.hostLog

theorem InputKept.finish (s : State) : InputKept s (finish s) :=
  ⟨finish_ibuf s, finish_bufLen s, finish_len s, finish_taint s, finish_hostLog s⟩

theorem SrdMove.inputKept {s t : State} (h : SrdMove s t) : InputKept s t := by
  cases h with
  | bufferEnd => exact .finish s
  | term => exact { InputKept.finish s.termLatched with }
  | idle | clear | clearEnd | skip | accept | reject | paint | paintEnd =>
    exact ⟨rfl, rfl, rfl, rfl, rfl⟩

/-- Settles O52: the SRD's moves keep the outcome by the commuting lemma of each, the host's leave it alone
unless they set TAINT. -/
theorem everyStepKeepsTheOutcome : Obligations.EveryStepKeepsTheOutcome := by
  intro s t hinv hframe hbusy hnoReset hstep hclean
  obtain ⟨rest, hmove⟩ := move_of_step hstep
  rw [← outcomeOf_script s rest]
  cases hmove with
  | srd _ hmove =>
    exact hmove.outcome_agree (hinv.withScript rest) (hframe.withScript rest) hbusy
      (hmove.inputKept.taint.symm.trans hclean)
  | host _ hmove => exact .of_eq (hmove.outcome_eq (hinv.withScript rest) hbusy hclean)
  | reset hturn => exact absurd ⟨rest, hturn⟩ hnoReset

end Sys2Proof.Machine
end

section
/-! The family of spec/20_memory.md: who may access the three spaces and how, the SRD's input, the host's reads,
the accesses refused and the platform's addresses (R29, R34, R39, R52, R56, R58, R59). -/

namespace Sys2Proof.Machine

/-! ### The SRD's input and the host's reads -/

/-- Settles O44: by the moves of the SRD, none of which writes its input or takes a turn more. -/
theorem srdNeverWritesItsInput : Obligations.SrdNeverWritesItsInput := by
  intro s t rest hturn hstep
  rw [step_of_srdNext hturn] at hstep
  have hmove := srdMove_of_srdStep hstep
  obtain ⟨hibuf, hbufLen, hlen, htaint, hlog⟩ := hmove.inputKept
  exact ⟨hibuf, hbufLen, hlen, htaint, hlog, hmove.script_eq⟩

/-- R58: a host read that is answered is a read of the space and offset that its place names. -/
theorem hostStep_read_leaves {place : HostAddr} {width : Nat} {s t : State}
    (h : hostStep (.read place width) s = .next t) : readLeaves s t := by
  cases hplace : resolve s.cfg place with
  | none => rw [hostStep_unmapped hplace] at h; cases h
  | some target =>
    rw [hostStep_read hplace] at h
    exact hostRead_leaves h

/-- Settles O50: a read leaves the log one entry longer, and at most one free value used. -/
theorem hostReadsHaveNoSideEffects : Obligations.HostReadsHaveNoSideEffects := by
  intro s t place width rest hturn hstep
  rw [step_of_hostNext hturn] at hstep
  rcases hostStep_read_leaves hstep with ⟨v, -, rfl⟩ | ⟨-, v, -, rfl⟩
  · exact ⟨v, s.draws, le_rfl, rfl⟩
  · exact ⟨v, s.draws + 1, Nat.le_succ _, rfl⟩

/-! ### What is refused -/

/-- The machine does not refuse: it goes on or faults. -/
def NotRefused (r : Result) : Prop := ∀ why, r ≠ .refused why

theorem NotRefused.next (s : State) : NotRefused (.next s) := nofun

theorem NotRefused.of_next {r : Result} (h : ∃ t, r = .next t) : NotRefused r := by
  obtain ⟨t, rfl⟩ := h
  exact .next t

/-- An access of the SRD outside its space is a fault and no refusal. -/
theorem NotRefused.orFault {α : Type} (r : Except Fault α) {k : α → Result} (h : ∀ v, NotRefused (k v)) :
    NotRefused (orFault r k) := by
  cases r with
  | ok v => exact h v
  | error f => nofun

theorem clearStep_notRefused (s : State) : NotRefused (clearStep s) := .of_next (clearStep_next s)

theorem scanStep_notRefused (s : State) : NotRefused (scanStep s) := by
  unfold scanStep
  split
  · exact .next _
  · exact .orFault _ fun _ => .of_next (exec_next _ _)

theorem paintStep_notRefused (s : State) : NotRefused (paintStep s) := by
  unfold paintStep
  split
  · exact .orFault _ fun _ => .next _
  · exact .next _

/-- The SRD's step is refused in no state. -/
theorem srdStep_notRefused (s : State) : NotRefused (srdStep s) := by
  unfold srdStep
  split
  · exact .next s
  · exact clearStep_notRefused s
  · exact scanStep_notRefused s
  · exact paintStep_notRefused s

theorem headerCheck_notRefused (s : State) : NotRefused (headerCheck s) := by
  unfold headerCheck
  split
  · exact .next _
  · refine .orFault _ fun b => ?_
    split <;> exact .next _

theorem writeReg_notRefused (r : Reg) (v : Word) (s : State) : NotRefused (writeReg r v s) := by
  cases r with
  | ctrl =>
    rw [writeReg_ctrl, startCommand]
    split_ifs
    · exact headerCheck_notRefused _
    · exact .next s
    · exact .next s
  | status | bufLen | segCount | malCount => exact .next _

theorem hostWrite_notRefused {space : Space} {off width : Nat} {s : State}
    (h : accessDefined s.cfg space off width) (v : Word) : NotRefused (hostWrite space off width v s) := by
  cases space with
  | reg =>
    obtain ⟨r, hr⟩ := regPort_of_defined h fun r => writeReg r v s
    rw [hostWrite, hr]
    exact writeReg_notRefused r v s
  | ibuf => exact .of_next ⟨_, bytePort_of_defined h _⟩
  | fb => exact .of_next ⟨_, bytePort_of_defined h _⟩

theorem hostStep_notRefused {act : HostAct} {s : State} {space : Space} {off : Nat}
    (hplace : resolve s.cfg act.place.1 = some (space, off))
    (h : accessDefined s.cfg space off act.place.2) : NotRefused (hostStep act s) := by
  cases act with
  | read place width =>
    rw [hostStep_read (place := place) hplace]
    exact .of_next (hostRead_of_defined h)
  | write place width v =>
    rw [hostStep_write (place := place) hplace]
    exact hostWrite_notRefused h v

/-- R56: a step that is refused is an undefined host access, whatever the state. -/
theorem undefinedAccessNext_of_refused {s : State} {why : Refusal} (h : step s = .refused why) :
    undefinedAccessNext s := by
  match hscript : s.script with
  | [] =>
    rw [step_of_srdNext (.inr ⟨hscript, rfl⟩)] at h
    exact absurd h (srdStep_notRefused _ why)
  | .srd :: rest =>
    rw [step_of_srdNext (.inl hscript)] at h
    exact absurd h (srdStep_notRefused _ why)
  | .host act :: rest =>
    rw [step_of_hostNext hscript] at h
    exact ⟨act, rest, hscript, fun space off hplace hdefined =>
      hostStep_notRefused (s := { s with script := rest }) hplace hdefined why h⟩
  | .reset :: rest =>
    simp only [step, takeTurn, hscript] at h
    cases h

/-- Settles O34: an undefined host access is refused, and no other turn is, in any state; R10 and R59 are not
needed for it. -/
theorem onlyUndefinedAccessesAreRefused : Obligations.OnlyUndefinedAccessesAreRefused := fun _ _ =>
  ⟨fun ⟨_, h⟩ => undefinedAccessNext_of_refused h, step_of_undefinedAccessNext⟩

/-! ### The platform's addresses -/

/-- The window of a space on the platform: its base and its size (R59; REG's size is log entry 11). -/
def spaceWindow (c : Config) : Space → Nat × Nat
  | .reg => (c.regBase, Config.regSize)
  | .ibuf => (c.ibufBase, c.ibufSize)
  | .fb => (c.fbBase, c.fbSize)

theorem offset_of_mem_window {base size addr : Nat} (h : base ≤ addr ∧ addr < base + size) :
    addr = base + (addr - base) ∧ addr - base < size := by omega

/-- R59: an address of the map lies in the window of its space, at its offset. -/
theorem window_of_locate {c : Config} {addr off : Nat} {space : Space}
    (h : locate c addr = some (space, off)) :
    addr = (spaceWindow c space).1 + off ∧ off < (spaceWindow c space).2 := by
  unfold locate at h
  split_ifs at h with hreg hibuf hfb
  · cases h
    exact offset_of_mem_window hreg
  · cases h
    exact offset_of_mem_window hibuf
  · cases h
    exact offset_of_mem_window hfb

/-- R59: where the windows do not overlap, each address of a window is found, since those tried before it do
not have it. -/
theorem locate_of_window {c : Config} (h : c.wf) {off : Nat} {space : Space}
    (hoff : off < (spaceWindow c space).2) :
    locate c ((spaceWindow c space).1 + off) = some (space, off) := by
  obtain ⟨-, hregIbuf, hregFb, hibufFb⟩ := h
  cases space with
  | reg =>
    simp only [spaceWindow] at hoff ⊢
    rw [locate, if_pos (by omega), Nat.add_sub_cancel_left]
  | ibuf =>
    simp only [spaceWindow] at hoff ⊢
    rw [locate, if_neg (by omega), if_pos (by omega), Nat.add_sub_cancel_left]
  | fb =>
    simp only [spaceWindow] at hoff ⊢
    rw [locate, if_neg (by omega), if_neg (by omega), if_pos (by omega), Nat.add_sub_cancel_left]

theorem locate_eq_some_iff {c : Config} (h : c.wf) {addr off : Nat} {space : Space} :
    locate c addr = some (space, off) ↔
      addr = (spaceWindow c space).1 + off ∧ off < (spaceWindow c space).2 := by
  refine ⟨window_of_locate, ?_⟩
  rintro ⟨rfl, hoff⟩
  exact locate_of_window h hoff

/-- A turn of the host put in front of others. -/
theorem step_host_cons (act : HostAct) (rest : List Turn) (s : State) :
    step { s with script := .host act :: rest } = hostStep act { s with script := rest } := rfl

/-- R59: an access by a mapped address acts as the access at its offset. -/
theorem hostStep_platform {s : State} {addr off : Nat} {space : Space}
    (hplace : locate s.cfg addr = some (space, off)) (width : Nat) (v : Word) :
    hostStep (.read (.platform addr) width) s = hostStep (.read (.offset space off) width) s ∧
      hostStep (.write (.platform addr) width v) s = hostStep (.write (.offset space off) width v) s := by
  have hplatform : resolve s.cfg (.platform addr) = some (space, off) := hplace
  have hoffset : resolve s.cfg (.offset space off) = some (space, off) := rfl
  exact ⟨(hostStep_read hplatform width).trans (hostStep_read hoffset width).symm,
    (hostStep_write hplatform width v).trans (hostStep_write hoffset width v).symm⟩

/-- Settles O35: by the windows' bases and sizes, space by space. -/
theorem addressMap : Obligations.AddressMap := by
  intro s addr space off hwf
  refine ⟨?_, fun width v rest hplace => ?_⟩
  case refine_2 =>
    simp only [step_host_cons]
    exact hostStep_platform (s := { s with script := rest }) hplace width v
  rw [locate_eq_some_iff hwf]
  cases space <;> rfl

end Sys2Proof.Machine
end

section
/-! The family of spec/30_encoding.md: the decoder and the encoder undo each other, and the classes by R77's test
and R79's rows (R72 to R74, R77 to R80). -/

namespace Sys2Proof

/-! ### A record by its fields -/

/-- The record of rows 2 to 7 that the fields of a word stand for (R79), row 1 left aside. -/
def rowOfFields (ext : BitVec 3) (mk : BitVec 5) (x2 x1 y : Byte) : Instr :=
  if mk &&& 0b00001#5 = 0b00001#5 then .skipB0 ext (mk.extractLsb' 1 4) x2 x1 y
  else if mk &&& 0b00011#5 = 0b00010#5 then .skipB1 ext (mk.extractLsb' 2 3) x2 x1 y
  else if mk &&& 0b00111#5 = 0b00100#5 then .skipB2 ext (mk.extractLsb' 3 2) x2 x1 y
  else if mk &&& 0b01111#5 = 0b01000#5 then .skipB3 ext (mk.extractLsb' 4 1) x2 x1 y
  else if mk &&& 0b11111#5 = 0b10000#5 then .skipB4 ext x2 x1 y
  else .span (ext.getLsbD 2) (ext.getLsbD 1) (ext.getLsbD 0) x2 x1 y

theorem extractLsb'_fieldMK {k n : Nat} (hkn : k + n ≤ 5) (w : Word) :
    (fieldMK w).extractLsb' k n = w.extractLsb' (24 + k) n := by
  ext i hi
  simp [fieldMK, show k + i < 5 by omega, Nat.add_assoc]

/-- A word that is not the terminator's decodes by its fields. -/
theorem decodeWord_of_ne_zero {w : Word} (hw : w ≠ 0#32) :
    decodeWord w =
      rowOfFields (fieldExt w) (fieldMK w) (w.extractLsb' 16 8) (w.extractLsb' 8 8) (w.extractLsb' 0 8) := by
  rw [decodeWord_by_fieldMK, if_neg hw, rowOfFields, extractLsb'_fieldMK (by decide),
    extractLsb'_fieldMK (by decide), extractLsb'_fieldMK (by decide), extractLsb'_fieldMK (by decide)]
  simp [fieldEX1, fieldEX2, fieldEY, fieldExt]

/-- The extension bits and the bytes of a word put together from its fields (R73). -/
theorem ext_bytes_of_fields (ext : BitVec 3) (mk : BitVec 5) (x2 x1 y : Byte) :
    fieldExt (ext ++ mk ++ x2 ++ x1 ++ y) = ext ∧
      BitVec.extractLsb' 16 8 (ext ++ mk ++ x2 ++ x1 ++ y) = x2 ∧
      BitVec.extractLsb' 8 8 (ext ++ mk ++ x2 ++ x1 ++ y) = x1 ∧
      BitVec.extractLsb' 0 8 (ext ++ mk ++ x2 ++ x1 ++ y) = y := by
  refine ⟨?_, ?_, ?_, BitVec.extractLsb'_append_eq_right⟩ <;> apply BitVec.eq_of_getLsbD_eq <;> intro i hi <;>
    simp only [fieldExt, BitVec.getLsbD_append, BitVec.getLsbD_extractLsb'] <;> interval_cases i <;> simp

/-- Fields put together to a word other than the terminator's decode to the row they stand for. -/
theorem decodeWord_of_fields {ext : BitVec 3} {mk : BitVec 5} {x2 x1 y : Byte}
    (hw : ext ++ mk ++ x2 ++ x1 ++ y ≠ 0#32) :
    decodeWord (ext ++ mk ++ x2 ++ x1 ++ y) = rowOfFields ext mk x2 x1 y := by
  obtain ⟨hext, hx2, hx1, hy⟩ := ext_bytes_of_fields ext mk x2 x1 y
  rw [decodeWord_of_ne_zero hw, hext, fieldMK_of_fields, hx2, hx1, hy]

/-! ### The rows by their fields -/

section Rows
variable (ext : BitVec 3) (x2 x1 y : Byte)

theorem rowOfFields_skipB0 (mkHi : BitVec 4) :
    rowOfFields ext (mkHi ++ 0b1#1) x2 x1 y = .skipB0 ext mkHi x2 x1 y := by
  fin_cases mkHi <;> rfl

theorem rowOfFields_skipB1 (mkHi : BitVec 3) :
    rowOfFields ext (mkHi ++ 0b10#2) x2 x1 y = .skipB1 ext mkHi x2 x1 y := by
  fin_cases mkHi <;> rfl

theorem rowOfFields_skipB2 (mkHi : BitVec 2) :
    rowOfFields ext (mkHi ++ 0b100#3) x2 x1 y = .skipB2 ext mkHi x2 x1 y := by
  fin_cases mkHi <;> rfl

theorem rowOfFields_skipB3 (mkHi : BitVec 1) :
    rowOfFields ext (mkHi ++ 0b1000#4) x2 x1 y = .skipB3 ext mkHi x2 x1 y := by
  fin_cases mkHi <;> rfl

theorem rowOfFields_skipB4 : rowOfFields ext 0b10000#5 x2 x1 y = .skipB4 ext x2 x1 y := rfl

theorem rowOfFields_span (ex1 ex2 ey : Bool) :
    rowOfFields (BitVec.ofBool ex1 ++ BitVec.ofBool ex2 ++ BitVec.ofBool ey) 0#5 x2 x1 y =
      .span ex1 ex2 ey x2 x1 y := by
  cases ex1 <;> cases ex2 <;> cases ey <;> rfl

end Rows

/-- Every record but the terminator is the row of some fields: the row's pattern completes MK. -/
theorem exists_rowOfFields {i : Instr} (hi : i ≠ .term) :
    ∃ ext mk x2 x1 y, i = rowOfFields ext mk x2 x1 y := by
  cases i with
  | term => exact absurd rfl hi
  | skipB0 => exact ⟨_, _, _, _, _, (rowOfFields_skipB0 ..).symm⟩
  | skipB1 => exact ⟨_, _, _, _, _, (rowOfFields_skipB1 ..).symm⟩
  | skipB2 => exact ⟨_, _, _, _, _, (rowOfFields_skipB2 ..).symm⟩
  | skipB3 => exact ⟨_, _, _, _, _, (rowOfFields_skipB3 ..).symm⟩
  | skipB4 => exact ⟨_, _, _, _, _, (rowOfFields_skipB4 ..).symm⟩
  | span => exact ⟨_, _, _, _, _, (rowOfFields_span ..).symm⟩

/-- R79: a field MK ends in the pattern of one of the rows 2 to 6, or it is zero. -/
theorem mk_pattern (mk : BitVec 5) :
    (∃ hi : BitVec 4, mk = hi ++ 0b1#1) ∨ (∃ hi : BitVec 3, mk = hi ++ 0b10#2) ∨
      (∃ hi : BitVec 2, mk = hi ++ 0b100#3) ∨ (∃ hi : BitVec 1, mk = hi ++ 0b1000#4) ∨
      mk = 0b10000#5 ∨ mk = 0#5 := by
  decide +revert

theorem ext_by_bits (ext : BitVec 3) :
    ∃ ex1 ex2 ey : Bool, ext = BitVec.ofBool ex1 ++ BitVec.ofBool ex2 ++ BitVec.ofBool ey := by
  decide +revert

/-- The row of some fields is encoded as these fields. -/
theorem encode_rowOfFields (ext : BitVec 3) (mk : BitVec 5) (x2 x1 y : Byte) :
    encode (rowOfFields ext mk x2 x1 y) = ext ++ mk ++ x2 ++ x1 ++ y := by
  rcases mk_pattern mk with ⟨hi, rfl⟩ | ⟨hi, rfl⟩ | ⟨hi, rfl⟩ | ⟨hi, rfl⟩ | rfl | rfl
  · simp only [rowOfFields_skipB0, encode, BitVec.append_assoc, BitVec.cast_eq]
  · simp only [rowOfFields_skipB1, encode, BitVec.append_assoc, BitVec.cast_eq]
  · simp only [rowOfFields_skipB2, encode, BitVec.append_assoc, BitVec.cast_eq]
  · simp only [rowOfFields_skipB3, encode, BitVec.append_assoc, BitVec.cast_eq]
  · rfl
  · obtain ⟨ex1, ex2, ey, rfl⟩ := ext_by_bits ext
    rw [rowOfFields_span, encode_span_fields]

/-! ### Decoding and encoding -/

/-- R77's test gives the word of a well-formed record the record's own class. -/
theorem classify_encode {i : Instr} (h : i.wf = true) : classify (encode i) = i.cls := by
  cases i with
  | term => exact Laws.ClassOfWord.term h
  | skipB0 => exact Laws.ClassOfWord.skipB0 _ _ _ _ _ h
  | skipB1 => exact Laws.ClassOfWord.skipB1 _ _ _ _ _ h
  | skipB2 => exact Laws.ClassOfWord.skipB2 _ _ _ _ _ h
  | skipB3 => exact Laws.ClassOfWord.skipB3 _ _ _ _ _ h
  | skipB4 => exact Laws.ClassOfWord.skipB4 _ _ _ _ h
  | span => exact Laws.ClassOfWord.span _ _ _ _ _ _ h

theorem Instr.cls_eq_term_iff {i : Instr} : i.cls = .term ↔ i = .term := by
  cases i <;> simp [Instr.cls]

/-- Only the terminator has the zero word. -/
theorem encode_ne_zero {i : Instr} (h : i.wf = true) (hi : i ≠ .term) : encode i ≠ 0#32 := by
  intro hz
  have hcls : classify 0#32 = i.cls := hz ▸ classify_encode h
  exact hi (Instr.cls_eq_term_iff.1 (hcls.symm.trans (by decide)))

/-- A record whose word is not the terminator's is well-formed. -/
theorem wf_of_encode_ne_zero {i : Instr} (h : encode i ≠ 0#32) : i.wf = true := by
  cases i with
  | span ex1 ex2 ey x2 x1 y =>
    by_contra hwf
    simp only [Instr.wf, spanNotTerminator, Bool.or_eq_true, bne_iff_ne, not_or, not_not, Bool.not_eq_true] at hwf
    obtain ⟨⟨⟨⟨⟨rfl, rfl⟩, rfl⟩, rfl⟩, rfl⟩, rfl⟩ := hwf
    exact h (by decide)
  | _ => rfl

/-- R72, R73, R79: a well-formed record is what its word decodes to. -/
theorem decodeWord_encode {i : Instr} (h : i.wf = true) : decodeWord (encode i) = i := by
  by_cases hi : i = .term
  · subst hi
    exact decodeWord_zero
  · have hne := encode_ne_zero h hi
    obtain ⟨ext, mk, x2, x1, y, rfl⟩ := exists_rowOfFields hi
    rw [encode_rowOfFields] at hne ⊢
    exact decodeWord_of_fields hne

/-- R78, R80: no bit of a word is dropped. -/
theorem encode_decodeWord (w : Word) : encode (decodeWord w) = w := by
  by_cases hw : w = 0#32
  · subst hw
    decide
  · rw [decodeWord_of_ne_zero hw, encode_rowOfFields, word_of_fields]

/-- R78, R80: no word is illegal. -/
theorem wf_decodeWord (w : Word) : (decodeWord w).wf = true := by
  by_cases hw : w = 0#32
  · subst hw
    decide
  · exact wf_of_encode_ne_zero (by rwa [encode_decodeWord])

/-- R77: the class of the decoded record is that of the priority test. -/
theorem cls_decodeWord (w : Word) : (decodeWord w).cls = classify w := by
  rw [← classify_encode (wf_decodeWord w), encode_decodeWord]

/-- Settles O1: the encoded bytes are those of the instruction's word, and the fields of that word decode to the
row they were put together from. -/
theorem decodeEncodeRoundTrip : Obligations.DecodeEncodeRoundTrip := by
  intro i rest h
  rw [encodeBytes, decode_recordOfWord, decodeWord_encode h]

/-- Settles O2: the row of a word's fields is encoded as these fields. -/
theorem encodeDecodeKeepsEveryBit : Obligations.EncodeDecodeKeepsEveryBit :=
  fun w => ⟨encode_decodeWord w, wf_decodeWord w⟩

/-- Settles O3: `classify` is the rule's test. -/
theorem recordClassByPriority : Obligations.RecordClassByPriority :=
  ⟨cls_decodeWord, by decide⟩

/-! ### The rows of the class map -/

/-- R79: the first row that hits a word has the class of R77's test: it depends on MK and on the word being zero. -/
theorem firstHit_cls (w : Word) :
    (opcodeTable.find? fun r => r.hits w).map OpRow.cls = some (classify w) := by
  simp only [opcodeTable, List.find?, classify, rowTerm_hits, rowSkipB0_hits, rowSkipB1_hits, rowSkipB2_hits,
    rowSkipB3_hits, rowSkipB4_hits, rowSpan_hits]
  by_cases hw : w = 0#32
  · simp [hw, rowTerm]
  · simp only [hw, decide_false, if_false]
    generalize fieldMK w = mk
    decide +revert

/-- R79: of rows 2 to 6 exactly one hits a word with a bit of MK set, and none any other. -/
theorem countP_skipRows (w : Word) :
    ((opcodeTable.drop 1).take 5).countP (fun r => r.hits w) = if fieldMK w = 0#5 then 0 else 1 := by
  simp only [opcodeTable, List.drop, List.take, List.countP_cons, List.countP_nil, rowSkipB0_hits, rowSkipB1_hits,
    rowSkipB2_hits, rowSkipB3_hits, rowSkipB4_hits]
  generalize fieldMK w = mk
  decide +revert

theorem decodeWord_of_cls_span {w : Word} (h : (decodeWord w).cls = .span) :
    decodeWord w = .span (fieldEX1 w) (fieldEX2 w) (fieldEY w) (w.extractLsb' 16 8) (w.extractLsb' 8 8)
      (w.extractLsb' 0 8) := by
  rw [cls_decodeWord, classify] at h
  split_ifs at h with hw hmk
  exact decodeWord_of_fieldMK_eq hw (not_not.1 hmk)

/-- Settles O4: the rows are R79's, and which of them hit a word is decided by MK and the word being zero. -/
theorem opcodeTableGivesTheClasses : Obligations.OpcodeTableGivesTheClasses := by
  refine ⟨rfl, fun w => ?_, fun w hmk => ?_, fun w hmk => ?_, fun w => decodeWord_of_cls_span⟩
  · rw [cls_decodeWord, firstHit_cls]
  · exact (countP_skipRows w).trans (if_neg hmk)
  · exact (countP_skipRows w).trans (if_pos hmk)

/-- Settles O6: of the three ways a record decodes (`decodeRecord_cases`), these bytes leave the SPAN's. -/
theorem spanOperandsFromBytes : Obligations.SpanOperandsFromBytes := by
  intro yb x1b x2b f rest hmk hne
  rcases decodeRecord_cases ⟨yb, x1b, x2b, f⟩ with ⟨-, hzero⟩ | ⟨-, hskip⟩ | ⟨hspan, -⟩
  · exact absurd hzero hne
  · exact absurd hmk hskip
  · exact congrArg (fun i => Except.ok (i, rest)) hspan

/-- Settles O7: the seven words are evaluated. -/
theorem sampleWordsDecode : Obligations.SampleWordsDecode := by
  unfold Obligations.SampleWordsDecode
  decide

end Sys2Proof
end

section
/-! The family of spec/30_encoding.md: how many words each class has (R78), the encodings of an extended value (R76)
and the record that a SPAN directive assembles to (R86). -/

namespace Sys2Proof

/-! ### The sizes of the classes -/

/-- R73: a word is its field MK and its other fields. -/
def wordFields : Word ≃ BitVec 5 × BitVec 3 × Byte × Byte × Byte where
  toFun w := (fieldMK w, fieldExt w, w.extractLsb' 16 8, w.extractLsb' 8 8, w.extractLsb' 0 8)
  invFun := fun (mk, ext, x2, x1, y) => ext ++ mk ++ x2 ++ x1 ++ y
  left_inv := word_of_fields
  right_inv := fun (mk, ext, x2, x1, y) => by
    obtain ⟨hext, hx2, hx1, hy⟩ := ext_bytes_of_fields ext mk x2 x1 y
    simp only [fieldMK_of_fields, hext, hx2, hx1, hy]

theorem natCard_bitVec (n : Nat) : Nat.card (BitVec n) = 2 ^ n := by
  rw [Nat.card_congr BitVec.equivFin.toEquiv, Nat.card_fin]

/-- Each value of MK leaves 27 bits of the word free. -/
theorem natCard_fieldMK (p : BitVec 5 → Prop) :
    Nat.card {w : Word // p (fieldMK w)} = Nat.card {mk // p mk} * 2 ^ 27 := by
  calc Nat.card {w : Word // p (fieldMK w)}
      = Nat.card ({mk // p mk} × BitVec 3 × Byte × Byte × Byte) :=
        Nat.card_congr ((wordFields.subtypeEquiv fun _ => Iff.rfl).trans
          (Equiv.prodSubtypeFstEquivSubtypeProd (p := p)))
    _ = Nat.card {mk // p mk} * 2 ^ 27 := by
        simp only [Nat.card_prod, natCard_bitVec]
        norm_num

theorem classify_eq_term_iff (w : Word) : classify w = .term ↔ w = 0#32 := by
  unfold classify
  split_ifs with hw <;> simp [hw]

theorem classify_eq_skip_iff (w : Word) : classify w = .skip ↔ fieldMK w ≠ 0#5 := by
  refine ⟨fun h => ?_, classify_of_fieldMK_ne⟩
  unfold classify at h
  split_ifs at h with hw hmk
  exact hmk

/-- The words of SPAN are those with `MK = 0` less the terminator's. -/
theorem classify_eq_span_iff (w : Word) :
    classify w = .span ↔ w ∈ {w : Word | fieldMK w = 0#5} \ {0#32} := by
  refine ⟨fun h => ?_, fun ⟨hmk, hw⟩ => classify_of_fieldMK_eq hw hmk⟩
  unfold classify at h
  split_ifs at h with hw hmk
  exact ⟨not_not.1 hmk, hw⟩

/-- R78: the terminator's word has `MK = 0`, so it is one of the 2^27 words to leave out. -/
theorem natCard_span : Nat.card {w : Word // classify w = .span} = 2 ^ 27 - 1 := by
  have hmk : {w : Word | fieldMK w = 0#5}.ncard = 2 ^ 27 := by
    rw [← Nat.card_coe_set_eq]
    exact (natCard_fieldMK (· = 0#5)).trans (by rw [Nat.card_unique, one_mul])
  rw [← hmk, ← Set.ncard_sdiff_singleton_of_mem (show 0#32 ∈ {w : Word | fieldMK w = 0#5} by decide),
    ← Nat.card_coe_set_eq]
  exact Nat.card_congr (Equiv.subtypeEquivRight classify_eq_span_iff)

/-- Settles O5: a SKIP has one of the 31 values of MK that are not zero, a SPAN has `MK = 0`, which TERM's word
has too. -/
theorem classSizes : Obligations.ClassSizes := by
  simp only [Obligations.ClassSizes, cls_decodeWord, natCard_span, classify_eq_term_iff, classify_eq_skip_iff,
    natCard_fieldMK (· ≠ 0#5), Nat.card_unique]
  have hmk : Nat.card {mk : BitVec 5 // mk ≠ 0#5} = 31 := by
    rw [Nat.card_eq_fintype_card]
    decide
  rw [hmk]
  decide

end Sys2Proof

namespace Sys2Proof.Machine

/-! ### Extended values -/

theorem extend_false (b : Byte) : extend b false = b.toNat := rfl

theorem extend_true (b : Byte) : extend b true = b.toNat + 255 := rfl

/-- Settles O8: without the bit the byte is the value, with it the byte is 255 less; both reach only 255. -/
theorem extendedValueEncodings : Obligations.ExtendedValueEncodings := by
  intro b e v
  have hb := b.isLt
  cases e with
  | false =>
    simp only [extend_false, BitVec.toNat_eq, BitVec.toNat_ofNat, reduceCtorEq, and_true, and_false, or_false,
      false_or]
    omega
  | true =>
    simp only [extend_true, BitVec.toNat_eq, BitVec.toNat_ofNat, reduceCtorEq, and_true, and_false, false_or]
    omega

/-- R86: `enc` gives every value up to 510, with the encoding that is not `(0x00, 1)`. -/
theorem canonical_eq_some {v off : Nat} (h : v + off ≤ 510) :
    ∃ b e, canonical v off = some (b, e) ∧ extend b e = v + off ∧ (e = false ∨ b ≠ 0#8) := by
  unfold canonical
  by_cases hlow : v + off ≤ 255
  · refine ⟨_, _, if_pos hlow, ?_, .inl rfl⟩
    rw [extend_false, BitVec.toNat_ofNat]
    omega
  · have hval : (BitVec.ofNat 8 (v + off - 255)).toNat = v + off - 255 := by
      rw [BitVec.toNat_ofNat]
      omega
    refine ⟨_, _, by rw [if_neg hlow, if_pos h], ?_, .inr fun hzero => ?_⟩
    · rw [extend_true, hval]
      omega
    · rw [hzero, BitVec.toNat_zero] at hval
      omega

theorem flagsByte_bits (ex1 ex2 ey : Bool) :
    (flagsByte ex1 ex2 ey).getLsbD 7 = ex1 ∧ (flagsByte ex1 ex2 ey).getLsbD 6 = ex2 ∧
      (flagsByte ex1 ex2 ey).getLsbD 5 = ey ∧ flagsByte ex1 ex2 ey &&& MK_MASK = 0#8 := by
  decide +revert

/-- R74, R86: a record with such flags and a raw y that is not 0 is the SPAN with these operands. -/
theorem decodeRecord_flagsByte {ex1 ex2 ey : Bool} {x2 x1 y : Byte} (h : 0 < extend y ey) :
    decodeRecord ⟨y, x1, x2, flagsByte ex1 ex2 ey⟩ = .span ex1 ex2 ey x2 x1 y := by
  obtain ⟨h7, h6, h5, hmk⟩ := flagsByte_bits ex1 ex2 ey
  rcases decodeRecord_cases ⟨y, x1, x2, flagsByte ex1 ex2 ey⟩ with
    ⟨-, hy, -, -, hf⟩ | ⟨-, hskip⟩ | ⟨hspan, -⟩
  · dsimp only at hy hf
    rw [hf] at h5
    subst hy h5
    exact absurd h (by decide)
  · exact absurd hmk hskip
  · rw [hspan, Record.asSpan, h7, h6, h5]

/-- Settles O9: raw values of the reference geometry are at most 289 + 11 and 356 + 41, so each has its canonical
encoding, and the raw y is at least 11, so the record is not the terminator. -/
theorem assembledSpanKeepsItsCoordinates : Obligations.AssembledSpanKeepsItsCoordinates := by
  rintro c y x1 x2 ⟨hyOff, hxOff, hyMax, hxMax⟩
  refine ⟨fun ⟨hy, hx1, hx2⟩ => ?_, fun hout => ?_⟩
  · obtain ⟨yb, ey, hyEnc, hyVal, hyCan⟩ := canonical_eq_some (v := y) (off := c.yOff) (by omega)
    obtain ⟨x1b, ex1, hx1Enc, hx1Val, hx1Can⟩ := canonical_eq_some (v := x1) (off := c.xOff) (by omega)
    obtain ⟨x2b, ex2, hx2Enc, hx2Val, hx2Can⟩ := canonical_eq_some (v := x2) (off := c.xOff) (by omega)
    have hin : y ≤ c.yMax ∧ x1 ≤ c.xMax ∧ x2 ≤ c.xMax := by omega
    refine ⟨⟨yb, x1b, x2b, flagsByte ex1 ex2 ey⟩, ex1, ex2, ey, ?_,
      decodeRecord_flagsByte (by omega), ?_, ?_, ?_, hyCan, hx1Can, hx2Can⟩
    · rw [assembleSpan, if_pos hin, hyEnc, hx1Enc, hx2Enc]
    · rw [adjustedY, hyVal, adjust]; omega
    · rw [adjustedX, hx1Val, adjust]; omega
    · rw [adjustedX, hx2Val, adjust]; omega
  · exact if_neg (by rwa [hyMax, hxMax])

end Sys2Proof.Machine
end

section
/-! The family of spec/40_decode_sequence.md: START, one CLEAR step, one SCAN step and the finish (R100 to R107, R110,
R111, R130). -/

namespace Sys2Proof.Machine

/-! ### START -/

theorem afterStart_of_header {s : State} (hlen : 2 ≤ s.bufLen.toNat) (hmarker : s.ibuf.read 1 = MARKER) :
    s.afterStart = s.clearBegun := if_pos ⟨hlen, hmarker⟩

theorem afterStart_of_bad_header {s : State} (h : s.bufLen.toNat < 2 ∨ s.ibuf.read 1 ≠ MARKER) :
    s.afterStart = s.startRefused :=
  if_neg fun ⟨hlen, hmarker⟩ => h.elim (Nat.not_lt.2 hlen) fun hne => hne hmarker

/-- R102: where IBUF has a byte 1, the header check of an accepted START leaves `afterStart`, whatever BUF_LEN
holds. -/
theorem headerCheck_beginDecode {s : State} (hsize : 1 < s.cfg.ibufSize) :
    headerCheck (beginDecode s) = .next s.afterStart := by
  have hgoesOn : ∃ t, headerCheck (beginDecode s) = .next t := by
    unfold headerCheck
    split
    · exact ⟨_, rfl⟩
    · rw [ibufMemRead_of_lt (s := beginDecode s) hsize, orFault_ok]
      split <;> exact ⟨_, rfl⟩
  obtain ⟨t, ht⟩ := hgoesOn
  rcases headerCheck_cases ht with ⟨hbad, rfl⟩ | ⟨hlen, hmarker, rfl⟩
  · rw [ht, afterStart_of_bad_header hbad, unknownMessage_beginDecode]
  · rw [ht, afterStart_of_header hlen hmarker]

/-- R100: in IDLE a write of CTRL with bit 0 set is an accepted START. -/
theorem step_of_accepted_start {s : State} {rest : List Turn} {v : Word}
    (hturn : hostNext s (.write (.offset .reg 0x00) 32 v) rest) (hbit : v.getLsbD 0 = true)
    (hidle : s.phase = .idle) (hwf : s.cfg.wf) :
    step s = .next { s with script := rest }.afterStart := by
  obtain ⟨⟨hsize, -⟩, -⟩ := hwf
  rw [step_writeReg .ctrl rfl hturn, writeReg_ctrl, if_pos hbit]
  exact (if_pos hidle).trans (headerCheck_beginDecode (s := { s with script := rest }) hsize)

/-- Settles O25: the header check passes, so the START leaves `clearBegun`. -/
theorem startBeginsTheClear : Obligations.StartBeginsTheClear := by
  intro s rest v hturn hbit hidle hwf hlen hmarker
  rw [step_of_accepted_start hturn hbit hidle hwf,
    afterStart_of_header (s := { s with script := rest }) hlen hmarker]
  rfl

/-- Settles O26: the header check fails, so the START leaves `startRefused`, which is idle as before. -/
theorem startReportsUnknownMessage : Obligations.StartReportsUnknownMessage := by
  intro s rest v hturn hbit hidle hwf hbad
  rw [step_of_accepted_start hturn hbit hidle hwf,
    afterStart_of_bad_header (s := { s with script := rest }) hbad, hidle]
  rfl

/-- Settles O27: whatever bit 0 of the value is, a write of CTRL outside IDLE has no effect. -/
theorem startWhileBusyIsIgnored : Obligations.StartWhileBusyIsIgnored := by
  intro s rest v hturn hbusy
  rw [step_writeReg .ctrl rfl hturn, writeReg_ctrl]
  split
  · exact if_neg hbusy
  · rfl

/-! ### The SRD's steps -/

/-- A turn of the SRD makes its move. -/
theorem step_of_srdMove {s t : State} {rest : List Turn} (hturn : srdNext s rest)
    (hmove : SrdMove { s with script := rest } t) : step s = .next t :=
  (step_of_srdNext hturn).trans hmove.srdStep_eq

/-- Settles O21: by the two moves of CLEAR, the write being of one byte. -/
theorem clearStep_effect : Obligations.ClearStep := by
  intro s rest hturn hphase
  refine ⟨fun hcp => ⟨s.fb.write s.cp PIX_OFF, ?_, s.fb.read_write_same _ _,
    fun a ha => s.fb.read_write_other ha _⟩, fun hcp => ?_⟩
  · exact step_of_srdMove hturn (.clear hphase hcp)
  · exact step_of_srdMove hturn (.clearEnd hphase hcp)

/-- Settles O18: where a window is read, the step is the class action of the record decoded from it. -/
theorem stepRunsDecodedRecord : Obligations.StepRunsDecodedRecord := by
  rintro s rest i r hturn hphase hlen hspace rfl hdecode
  have hread : WindowRead { s with script := rest } := ⟨hphase, hlen, hspace⟩
  have hnext : windowNext { s with script := rest } = i := congrArg Prod.fst (Except.ok.inj hdecode)
  rw [step_of_srdNext hturn, srdStep_of_windowRead hread, hnext]
  rfl

/-- Settles O19: the move is a finish, which without a hazard draws nothing. -/
theorem scanFinishesAtBufferEnd : Obligations.ScanFinishesAtBufferEnd := by
  intro s rest hturn hphase hend hclean
  rw [step_of_srdMove hturn (.bufferEnd hphase hend), finish_of_untainted (s := { s with script := rest }) hclean]
  rfl

/-- Settles O20: the move is a finish, which after a hazard draws the five results. -/
theorem taintedFinishDrawsResults : Obligations.TaintedFinishDrawsResults := by
  intro s rest hturn hphase hend htaint
  let s' := { s with script := rest }
  have hfinish : FinishOf s' s' := ⟨hphase, .inl hend, rfl, rfl, rfl, rfl, rfl, rfl, rfl⟩
  obtain ⟨hdraws, hfb, hseg, hmal, hstatus, hibuf, -⟩ := hfinish.tainted htaint
  refine ⟨finish s', step_of_srdMove hturn (.bufferEnd hphase hend), finish_phase s', finish_busy s',
    finish_done s', fun a => ?_, hseg, hmal, congrArg Status.unknownMsg hstatus,
    congrArg Status.termSeen hstatus, hdraws ▸ Nat.lt_succ_self _, hibuf, finish_bufLen s'⟩
  rw [hfb]
  rfl

end Sys2Proof.Machine
end

section
/-! The family of spec/40_decode_sequence.md, its ground for whole decodes: the windows that a decode has still to
read, the steps that it has still to take, and what the SRD's steps alone keep from a START to the finish
(R70, R112, R113). -/

namespace Sys2Proof.Machine

/-! ### The windows still to come -/

/-- The offset at which the next window is read: `s.RP`, and before the scan begins where it will begin (R106). -/
def scanPointer (s : State) : Nat := if s.phase = .clear then HDR_LEN else s.rp.toNat

/-- The windows that a scan of the latched buffer reads from offset `p` on (R70). -/
abbrev State.windowsAt (s : State) (p : Nat) : List Record :=
  windowsFrom s.ibuf.read s.len.toNat (windowCount s.len.toNat) p

/-- The windows that the decode has still to read. -/
def windowsLeft (s : State) : List Record := if s.phase = .idle then [] else s.windowsAt (scanPointer s)

theorem windowsLeft_of_idle {s : State} (h : s.phase = .idle) : windowsLeft s = [] := if_pos h

theorem windowsLeft_of_clear {s : State} (h : s.phase = .clear) : windowsLeft s = s.windowsAt HDR_LEN := by
  simp [windowsLeft, scanPointer, h]

theorem scanPointer_of_decoding {s : State} (h : s.decoding) : scanPointer s = s.rp.toNat := by
  rcases h with h | h <;> simp [scanPointer, h]

theorem windowsLeft_of_decoding {s : State} (h : s.decoding) : windowsLeft s = s.windowsAt s.rp.toNat := by
  rcases h with h | h <;> simp [windowsLeft, scanPointer, h]

/-- R77: R70's test for the last window is that it decodes to TERM. -/
theorem classify_word_eq_term_iff (r : Record) : classify r.word = .term ↔ decodeRecord r = .term := by
  rw [decodeRecord, ← cls_decodeWord, cls_eq_term_iff]

/-- R70, R107: where a window is read, it is the first of those still to come. -/
theorem windowsAt_of_windowRead {s : State} (hinv : Inv s) (hread : WindowRead s) :
    s.windowsAt s.rp.toNat =
      if windowNext s = .term then [s.windowLatched.latch]
      else s.windowLatched.latch :: s.windowsAt s.windowLatched.rp.toNat := by
  obtain ⟨k, hcount, hbound⟩ := windowCount_of_windowRead hinv hread
  rw [State.windowsAt, State.windowsAt, hcount, windowsFrom_step k hread.inLength, latchWindow_rp,
    rp_advance hread.inLength, windowsFrom_bound _ _ _ _ hbound]
  exact if_congr (classify_word_eq_term_iff _) rfl rfl

/-- A move from `s` to `t` that reads no window. -/
structure ReadsNoWindow (s t : State) : Prop where
  windows : windowsLeft t = windowsLeft s
  latch : t.latch = s.latch
  pointer : scanPointer t = scanPointer s

/-- A move from `s` to `t` that reads the first of the windows still to come (R107, R130). -/
structure ReadsWindow (s t : State) : Prop where
  read : WindowRead s
  windows : windowsLeft s = t.latch :: windowsLeft t
  latch : t.latch = s.windowLatched.latch
  pointer : scanPointer t = scanPointer s + 4

/-- The class action of any window but a TERM goes on at the next one. -/
theorem ReadsWindow.of_next {s t : State} (hinv : Inv s) (hread : WindowRead s) (hterm : windowNext s ≠ .term)
    (ht : t.decoding) (hibuf : t.ibuf = s.ibuf) (hlen : t.len = s.len) (hrp : t.rp = s.windowLatched.rp)
    (hlatch : t.latch = s.windowLatched.latch) : ReadsWindow s t where
  read := hread
  windows := by
    rw [windowsLeft_of_decoding (.inl hread.scanning), windowsAt_of_windowRead hinv hread, if_neg hterm,
      windowsLeft_of_decoding ht, hlatch, State.windowsAt, State.windowsAt, hibuf, hlen, hrp]
  latch := hlatch
  pointer := by
    rw [scanPointer_of_decoding ht, scanPointer_of_decoding (.inl hread.scanning), hrp, latchWindow_rp,
      rp_advance hread.inLength]

/-- R131: a TERM is the last window. -/
theorem ReadsWindow.of_term {s : State} (hinv : Inv s) (hread : WindowRead s) (hterm : windowNext s = .term) :
    ReadsWindow s (finish s.termLatched) where
  read := hread
  windows := by
    rw [windowsLeft_of_decoding (.inl hread.scanning), windowsAt_of_windowRead hinv hread, if_pos hterm,
      windowsLeft_of_idle (finish_phase _), finish_latch]
  latch := finish_latch _
  pointer := by
    rw [scanPointer_of_decoding (.inl hread.scanning), scanPointer, finish_phase, finish_rp]
    exact rp_advance hread.inLength

/-- R107: at the buffer end no window is left, and a finish reads none. -/
theorem ReadsNoWindow.of_bufferEnd {s : State} (hphase : s.phase = .scan)
    (hend : s.len.toNat < s.rp.toNat + 4) : ReadsNoWindow s (finish s) where
  windows := by
    rw [windowsLeft_of_idle (finish_phase s), windowsLeft_of_decoding (.inl hphase)]
    exact (windowsFrom_end _ hend).symm
  latch := finish_latch s
  pointer := by simp [scanPointer, hphase]

theorem SpanAt.windowNext_ne_term {s : State} {y x1 x2 : Int} (h : SpanAt s y x1 x2) :
    windowNext s ≠ .term := by
  obtain ⟨ex1, ex2, ey, x2b, x1b, yb, hi, -⟩ := h
  simp [hi]

theorem ReadsWindow.of_skip {s : State} (hinv : Inv s) (hread : WindowRead s)
    (hskip : (windowNext s).cls = .skip) : ReadsWindow s s.windowLatched :=
  have hterm : windowNext s ≠ .term := fun hterm => by simp [hterm, Instr.cls] at hskip
  .of_next hinv hread hterm (.inl hread.scanning) rfl rfl rfl rfl

theorem ReadsWindow.of_accept {s : State} {y x1 x2 : Int} (hinv : Inv s) (hread : WindowRead s)
    (hspan : SpanAt s y x1 x2) : ReadsWindow s (acceptSpan (setCoords y x1 x2 s.windowLatched)) :=
  .of_next hinv hread hspan.windowNext_ne_term (.inr rfl) rfl rfl rfl rfl

theorem ReadsWindow.of_reject {s : State} {y x1 x2 : Int} (hinv : Inv s) (hread : WindowRead s)
    (hspan : SpanAt s y x1 x2) : ReadsWindow s (rejectSpan (setCoords y x1 x2 s.windowLatched)) :=
  .of_next hinv hread hspan.windowNext_ne_term (.inl hread.scanning) rfl rfl rfl rfl

/-- Every move of a decode reads one window or none. -/
theorem SrdMove.reads_window_or_not {s t : State} (h : SrdMove s t) (hinv : Inv s) (hbusy : s.phase ≠ .idle) :
    ReadsNoWindow s t ∨ ReadsWindow s t := by
  cases h with
  | idle hp => exact absurd hp hbusy
  | clear | paint => exact .inl ⟨rfl, rfl, rfl⟩
  | clearEnd hp =>
    exact .inl ⟨(windowsLeft_of_decoding (.inl rfl)).trans (windowsLeft_of_clear hp).symm, rfl,
      (scanPointer_of_decoding (.inl rfl)).trans (if_pos hp).symm⟩
  | bufferEnd hp hend => exact .inl (.of_bufferEnd hp hend)
  | term hread hterm => exact .inr (.of_term hinv hread hterm)
  | skip hread hskip => exact .inr (.of_skip hinv hread hskip)
  | accept hread hspan => exact .inr (.of_accept hinv hread hspan)
  | reject hread hspan => exact .inr (.of_reject hinv hread hspan)
  | paintEnd hp =>
    exact .inl ⟨(windowsLeft_of_decoding (.inl rfl)).trans (windowsLeft_of_decoding (.inr hp)).symm, rfl,
      (scanPointer_of_decoding (.inl rfl)).trans (scanPointer_of_decoding (.inr hp)).symm⟩

/-! ### The steps still to come -/

/-- R112: the SCAN and PAINT steps that reading these windows takes at most, and the finish. -/
def scanSteps (c : Config) (windows : List Record) : Nat :=
  (windows.map fun r => paintSteps c r + 1).sum + 1

/-- R112: the steps that a decode has still to take at most. -/
def stepsLeft (s : State) : Nat :=
  match s.phase with
  | .idle => 0
  | .clear => stepsInPlace s + 1 + scanSteps s.cfg (windowsLeft s)
  | .scan | .paint => stepsInPlace s + scanSteps s.cfg (windowsLeft s)

theorem stepsLeft_of_idle {s : State} (h : s.phase = .idle) : stepsLeft s = 0 := by
  simp only [stepsLeft, h]

theorem stepsLeft_of_clear {s : State} (h : s.phase = .clear) :
    stepsLeft s = s.cfg.fbSize - s.cp + 1 + scanSteps s.cfg (windowsLeft s) := by
  simp only [stepsLeft, stepsInPlace, h]

theorem stepsLeft_of_scan {s : State} (h : s.phase = .scan) :
    stepsLeft s = scanSteps s.cfg (windowsLeft s) := by
  simp only [stepsLeft, stepsInPlace, h, Nat.zero_add]

theorem stepsLeft_of_paint {s : State} (h : s.phase = .paint) :
    stepsLeft s = (s.x2 - s.l).toNat + 1 + scanSteps s.cfg (windowsLeft s) := by
  simp only [stepsLeft, stepsInPlace, h]

theorem scanSteps_cons (c : Config) (r : Record) (windows : List Record) :
    scanSteps c (r :: windows) = paintSteps c r + 1 + scanSteps c windows := by
  simp only [scanSteps, List.map_cons, List.sum_cons]
  omega

theorem scanSteps_pos (c : Config) (windows : List Record) : 0 < scanSteps c windows := Nat.succ_pos _

/-- R112: what an accepted SPAN adds to `S`, by its coordinates. -/
theorem paintSteps_of_spanAt {s : State} {y x1 x2 : Int} (hspan : SpanAt s y x1 x2)
    (hvalid : spanValid s.cfg y x1 x2 = true) :
    paintSteps s.cfg s.windowLatched.latch = (x2 - x1).toNat + 1 := by
  obtain ⟨ex1, ex2, ey, x2b, x1b, yb, hi, rfl, rfl, rfl⟩ := hspan
  have hcls : classify s.windowLatched.latch.word = .span := by
    rw [← cls_decodeWord]
    exact congrArg Instr.cls hi
  rcases decodeRecord_cases s.windowLatched.latch with ⟨hterm, -⟩ | ⟨hskip, -⟩ | ⟨hbytes, -⟩
  · exact nomatch hi.symm.trans hterm
  · exact nomatch (congrArg Instr.cls hi).symm.trans hskip
  · cases hi.symm.trans hbytes
    simp only [paintSteps, refCoords_eq_adjusted, refValid_iff_spanValid]
    exact if_pos ⟨hcls, hvalid⟩

/-- R112: reading a window takes one of the steps left; the others are for its own paint and for what comes after. -/
theorem ReadsWindow.stepsLeft_eq {s t : State} (h : ReadsWindow s t) :
    stepsLeft s = paintSteps s.cfg s.windowLatched.latch + 1 + scanSteps s.cfg (windowsLeft t) := by
  rw [stepsLeft_of_scan h.read.scanning, h.windows, scanSteps_cons, h.latch]

/-- R112: every move of a decode takes one of the steps left. -/
theorem SrdMove.stepsLeft_lt {s t : State} (h : SrdMove s t) (hinv : Inv s) (hbusy : s.phase ≠ .idle) :
    stepsLeft t < stepsLeft s := by
  cases h with
  | idle hp => exact absurd hp hbusy
  | clear hp hcp =>
    have hs := stepsLeft_of_clear hp
    have ht : stepsLeft { s with fb := s.fb.write s.cp PIX_OFF, cp := s.cp + 1 } =
      s.cfg.fbSize - (s.cp + 1) + 1 + scanSteps s.cfg (windowsLeft s) := stepsLeft_of_clear hp
    omega
  | clearEnd hp =>
    have hs := stepsLeft_of_clear hp
    have ht : stepsLeft (scanBegin s) = scanSteps s.cfg (windowsLeft (scanBegin s)) := stepsLeft_of_scan rfl
    rw [hs, ht, windowsLeft_of_clear hp, windowsLeft_of_decoding (.inl rfl)]
    exact Nat.lt_add_of_pos_left (Nat.succ_pos _)
  | bufferEnd hp =>
    rw [stepsLeft_of_idle (finish_phase s), stepsLeft_of_scan hp]
    exact scanSteps_pos _ _
  | term hread hterm =>
    rw [stepsLeft_of_idle (finish_phase _), stepsLeft_of_scan hread.scanning]
    exact scanSteps_pos _ _
  | skip hread hskip =>
    have hs := (ReadsWindow.of_skip hinv hread hskip).stepsLeft_eq
    have ht : stepsLeft s.windowLatched = scanSteps s.cfg (windowsLeft s.windowLatched) :=
      stepsLeft_of_scan hread.scanning
    omega
  | @accept y x1 x2 hread hspan hvalid =>
    let t := acceptSpan (setCoords y x1 x2 s.windowLatched)
    have hs : stepsLeft s = _ + 1 + scanSteps s.cfg (windowsLeft t) :=
      (ReadsWindow.of_accept hinv hread hspan).stepsLeft_eq
    have ht : stepsLeft t = (x2 - x1).toNat + 1 + scanSteps s.cfg (windowsLeft t) := stepsLeft_of_paint rfl
    rw [paintSteps_of_spanAt hspan hvalid] at hs
    change stepsLeft t < stepsLeft s
    omega
  | @reject y x1 x2 hread hspan =>
    let t := rejectSpan (setCoords y x1 x2 s.windowLatched)
    have hs : stepsLeft s = _ + 1 + scanSteps s.cfg (windowsLeft t) :=
      (ReadsWindow.of_reject hinv hread hspan).stepsLeft_eq
    have ht : stepsLeft t = scanSteps s.cfg (windowsLeft t) := stepsLeft_of_scan hread.scanning
    change stepsLeft t < stepsLeft s
    omega
  | paint hp hl =>
    have hs := stepsLeft_of_paint hp
    have ht : stepsLeft { s with fb := s.fb.write (pixelOffset s.cfg s.y s.l).toNat PIX_ON, l := s.l + 1 } =
      (s.x2 - (s.l + 1)).toNat + 1 + scanSteps s.cfg (windowsLeft s) := stepsLeft_of_paint hp
    omega
  | paintEnd hp =>
    have hs := stepsLeft_of_paint hp
    have ht : stepsLeft { s with phase := .scan } = scanSteps s.cfg (windowsLeft { s with phase := .scan }) :=
      stepsLeft_of_scan rfl
    rw [hs, ht, windowsLeft_of_decoding (.inr hp), windowsLeft_of_decoding (.inl rfl)]
    exact Nat.lt_add_of_pos_left (Nat.succ_pos _)

theorem windowsFrom_length_le (buf : Nat → Byte) (len : Nat) : ∀ k p, (windowsFrom buf len k p).length ≤ k
  | 0, _ => le_rfl
  | k + 1, p => by
    by_cases hp : p + 4 ≤ len
    · rw [windowsFrom_step k hp]
      split
      · simp
      · exact Nat.succ_le_succ (windowsFrom_length_le buf len k (p + 4))
    · rw [windowsFrom_end _ (by omega)]
      exact Nat.zero_le _

/-- R112: at an accepted START the steps left are within the rule's bound. -/
theorem stepsLeft_afterStart_le (s : State) :
    stepsLeft s.afterStart ≤ stepBound s.cfg s.ibuf.read s.bufLen.toNat := by
  unfold State.afterStart
  split
  · have hcount : (windowsRead s.ibuf.read s.bufLen.toNat).length ≤ windowCount s.bufLen.toNat :=
      windowsFrom_length_le _ _ _ _
    have hleft : windowsLeft s.clearBegun = windowsRead s.ibuf.read s.bufLen.toNat := windowsLeft_of_clear rfl
    have hsteps : stepsLeft s.clearBegun = s.cfg.fbSize - 0 + 1 + scanSteps s.cfg (windowsLeft s.clearBegun) :=
      stepsLeft_of_clear rfl
    rw [hsteps, hleft, scanSteps, stepBound, List.sum_map_add, List.map_const', List.sum_replicate, smul_eq_mul]
    omega
  · rw [stepsLeft_of_idle rfl]
    exact Nat.zero_le _

/-! ### The SRD alone, from a START to the finish -/

/-- R112: the SRD alone ends every decode within the steps left, with DONE. -/
theorem decode_finishes_within {s : State} (hinv : Inv s) (hscript : s.script = [])
    (hdone : s.phase = .idle → s.status.done = true) :
    ∃ n t, n ≤ stepsLeft s ∧ runFor n s = .next t ∧ t.phase = .idle ∧ t.status.done = true := by
  by_cases hs : s.phase = .idle
  · exact ⟨0, s, Nat.zero_le _, runFor_zero s, hs, hdone hs⟩
  · obtain ⟨t, hmove⟩ := exists_srdMove hinv
    have hfewer := hmove.stepsLeft_lt hinv hs
    obtain ⟨n, u, hn, hrun, hu, hudone⟩ := decode_finishes_within (hinv.srdMove hmove)
      (hmove.script_eq.trans hscript) fun ht => hmove.done_of_idle hs ht
    exact ⟨n + 1, u, by omega, (runFor_succ (hmove.step_eq hscript)).trans hrun, hu, hudone⟩
termination_by stepsLeft s

/-- What the SRD's moves keep, the SRD's steps alone keep. -/
theorem srdRun_keeps {P : State → Prop} (hkeep : ∀ {s t}, Inv s → P s → SrdMove s t → P t) {n : Nat}
    {s t : State} (hinv : Inv s) (hscript : s.script = []) (hs : P s) (hrun : runFor n s = .next t) :
    Inv t ∧ P t := by
  induction n generalizing s with
  | zero =>
    obtain rfl : s = t := by simpa using hrun
    exact ⟨hinv, hs⟩
  | succ n ih =>
    obtain ⟨u, hmove⟩ := exists_srdMove hinv
    rw [runFor_succ (hmove.step_eq hscript)] at hrun
    exact ih (hinv.srdMove hmove) (hmove.script_eq.trans hscript) (hkeep hinv hs hmove) hrun

/-- What the SRD's moves keep from `u` on, where no hazard occurs: its input, the frame's invariant, what R113's
function reaches, and where the scan and the latch end. -/
structure DecodeFrom (u s : State) : Prop where
  cfg : s.cfg = u.cfg
  input : InputKept u s
  clean : s.taint = false
  frame : FrameInv s
  outcome : (outcomeOf s).agree u.cfg (outcomeOf u)
  pointer : scanPointer s + 4 * (windowsLeft s).length = scanPointer u + 4 * (windowsLeft u).length
  latch : (windowsLeft s).getLastD s.latch = (windowsLeft u).getLastD u.latch

theorem DecodeFrom.refl {u : State} (hclean : u.taint = false) (hframe : FrameInv u) : DecodeFrom u u where
  cfg := rfl
  input := ⟨rfl, rfl, rfl, rfl, rfl⟩
  clean := hclean
  frame := hframe
  outcome := DecodeResult.agree_refl _ _
  pointer := rfl
  latch := rfl

theorem InputKept.trans {s t u : State} (h : InputKept s t) (h' : InputKept t u) : InputKept s u :=
  ⟨h'.ibuf.trans h.ibuf, h'.bufLen.trans h.bufLen, h'.len.trans h.len, h'.taint.trans h.taint,
    h'.hostLog.trans h.hostLog⟩

theorem SrdMove.eq_of_idle {s t : State} (h : SrdMove s t) (hidle : s.phase = .idle) : t = s :=
  Host.Outcome.next.inj (h.srdStep_eq.symm.trans (SrdMove.idle hidle).srdStep_eq)

/-- One move more of a decode, reading a window or none. -/
theorem DecodeFrom.srdMove {u s t : State} (hinv : Inv s) (h : DecodeFrom u s) (hmove : SrdMove s t) :
    DecodeFrom u t := by
  by_cases hbusy : s.phase = .idle
  case pos => exact hmove.eq_of_idle hbusy ▸ h
  have houtcome := hmove.outcome_agree hinv h.frame hbusy h.clean
  have hends : scanPointer t + 4 * (windowsLeft t).length = scanPointer s + 4 * (windowsLeft s).length ∧
      (windowsLeft t).getLastD t.latch = (windowsLeft s).getLastD s.latch := by
    rcases hmove.reads_window_or_not hinv hbusy with hno | hreads
    · rw [hno.windows, hno.latch, hno.pointer]
      exact ⟨rfl, rfl⟩
    · rw [hreads.windows, hreads.pointer, List.length_cons, List.getLastD_cons]
      exact ⟨by omega, rfl⟩
  exact {
    cfg := hmove.cfg_eq.trans h.cfg
    input := h.input.trans hmove.inputKept
    clean := hmove.inputKept.taint.trans h.clean
    frame := h.frame.srdMove hinv hmove
    outcome := DecodeResult.agree_trans (h.cfg ▸ houtcome) h.outcome
    pointer := hends.1.trans h.pointer
    latch := hends.2.trans h.latch }

end Sys2Proof.Machine
end

section
/-! The family of spec/40_decode_sequence.md: a whole decode returns what the reference function returns, and what that
is for one buffer decoded twice, for the shortest buffer, for one SPAN and for the count of windows
(R104, R112 to R116). -/

namespace Sys2Proof.Machine

/-! ### The reference function -/

/-- R102: the header check passes or fails. -/
theorem header_cases (len : Nat) (b : Byte) : (2 ≤ len ∧ b = MARKER) ∨ (len < 2 ∨ b ≠ MARKER) := by
  by_cases hlen : len < 2
  · exact .inr (.inl hlen)
  · exact (em (b = MARKER)).imp (fun hb => ⟨Nat.not_lt.1 hlen, hb⟩) .inr

section Reference
variable {c : Config} {buf : Nat → Byte} {len : Nat}

theorem refDecode_of_header (hlen : 2 ≤ len) (hmarker : buf 1 = MARKER) (fb : Nat → Byte) :
    refDecode c buf len fb = refScan c buf len (windowCount len) 2 refStart :=
  if_neg fun hbad => hbad.elim (Nat.not_lt.2 hlen) fun hne => hne hmarker

theorem refDecode_of_bad_header (h : len < 2 ∨ buf 1 ≠ MARKER) (fb : Nat → Byte) :
    refDecode c buf len fb = ⟨fb, 0, 0, true, false⟩ := if_pos h

end Reference

/-- R113's loop looks at the bytes below the length alone. -/
theorem refScan_congr {c : Config} {len : Nat} {buf buf' : Nat → Byte} (h : ∀ a, a < len → buf a = buf' a) :
    ∀ (k p : Nat) (acc : DecodeResult), refScan c buf len k p acc = refScan c buf' len k p acc
  | 0, _, _ => rfl
  | k + 1, p, acc => by
    by_cases hp : p + 4 ≤ len
    · unfold refScan
      simp only [if_pos hp, h p (by omega), h (p + 1) (by omega), h (p + 2) (by omega), h (p + 3) (by omega),
        refScan_congr h k]
    · rw [refScan_end _ _ (by omega), refScan_end _ _ (by omega)]

/-- R114: the reference function gives the same for buffers that agree below their length, and for any two
frames where the header check passes. -/
theorem refDecode_agree {c : Config} {len : Nat} {buf buf' fb fb' : Nat → Byte}
    (hbuf : ∀ a, a < len → buf a = buf' a)
    (hfb : (2 ≤ len ∧ buf 1 = MARKER) ∨ ∀ a, a < c.fbSize → fb a = fb' a) :
    (refDecode c buf len fb).agree c (refDecode c buf' len fb') := by
  rcases header_cases len (buf 1) with ⟨hlen, hmarker⟩ | hbad
  · rw [refDecode_of_header hlen hmarker, refDecode_of_header hlen (hbuf 1 hlen ▸ hmarker), refScan_congr hbuf]
    exact DecodeResult.agree_refl _ _
  · have hframes : ∀ a, a < c.fbSize → fb a = fb' a := hfb.resolve_left fun ⟨hlen, hmarker⟩ =>
      hbad.elim (Nat.not_lt.2 hlen) fun hne => hne hmarker
    have hbad' : len < 2 ∨ buf' 1 ≠ MARKER := (Nat.lt_or_ge len 2).imp_right fun hlen =>
      hbuf 1 hlen ▸ hbad.resolve_left (Nat.not_lt.2 hlen)
    rw [refDecode_of_bad_header hbad, refDecode_of_bad_header hbad']
    exact ⟨hframes, rfl, rfl, rfl, rfl⟩

/-- R158: a whole span sets the bytes from the pixel of x1 up to that of x2, none where they do not rise. -/
theorem refPaint_interval (c : Config) (y x1 x2 : Int) (fb : Nat → Byte) (a : Nat) :
    refPaint c y x1 fb (x2 - x1).toNat a =
      if pixelOffset c y x1 ≤ (a : Int) ∧ (a : Int) < pixelOffset c y x2 then PIX_ON else fb a := by
  rw [refPaint_eq]
  unfold pixelOffset
  generalize y * (c.fbW : Int) = row
  exact if_congr (by omega) rfl rfl

/-- What R113's loop has counted: records accepted or malformed, and the terminator. -/
def DecodeResult.counted (r : DecodeResult) : Nat := r.seg + r.mal + r.term.toNat

theorem countSpan_counted (c : Config) (y x1 x2 : Int) (acc : DecodeResult) :
    (countSpan c y x1 x2 acc).counted = acc.counted + 1 ∧ (countSpan c y x1 x2 acc).term = acc.term := by
  unfold countSpan DecodeResult.counted
  split
  · exact ⟨by dsimp only; omega, rfl⟩
  · exact ⟨by dsimp only; omega, rfl⟩

/-- R116: each window of R113's loop is counted, or is a SKIP. -/
theorem refScan_counted (c : Config) (buf : Nat → Byte) (len : Nat) : ∀ (k p : Nat) (acc : DecodeResult),
    acc.term = false →
    (refScan c buf len k p acc).counted +
        (windowsFrom buf len k p).countP (fun r => (decodeRecord r).cls = .skip) =
      acc.counted + (windowsFrom buf len k p).length
  | 0, _, _, _ => rfl
  | k + 1, p, acc, hterm => by
    by_cases hp : p + 4 ≤ len
    · rw [windowsFrom_step k hp]
      simp only [classify_word_eq_term_iff]
      rcases decodeRecord_cases (windowAt buf p) with ⟨hi, -⟩ | ⟨hi, -⟩ | ⟨hi, -⟩
      · rw [refScan_of_term _ _ hp hi, if_pos hi]
        simp [DecodeResult.counted, hterm, hi, Instr.cls]
      · have ih := refScan_counted c buf len k (p + 4) acc hterm
        have hne : decodeRecord (windowAt buf p) ≠ .term := fun hi' => by simp [hi', Instr.cls] at hi
        rw [refScan_of_skip _ _ hp hi, if_neg hne]
        simp only [List.countP_cons, List.length_cons, hi, decide_true, if_true]
        omega
      · obtain ⟨y, x1, x2, hturn⟩ : ∃ y x1 x2, refScan c buf len (k + 1) p acc =
            refScan c buf len k (p + 4) (countSpan c y x1 x2 acc) := ⟨_, _, _, refScan_of_span k acc hp hi⟩
        obtain ⟨hcounted, hterm'⟩ := countSpan_counted c y x1 x2 acc
        have ih := refScan_counted c buf len k (p + 4) _ (hterm'.trans hterm)
        have hcls : (decodeRecord (windowAt buf p)).cls = .span := congrArg Instr.cls hi
        have hne : decodeRecord (windowAt buf p) ≠ .term := fun hi' => by simp [hi', Instr.cls] at hcls
        rw [hturn, if_neg hne]
        simp only [List.countP_cons, List.length_cons, hcls, reduceCtorEq, decide_false, if_false]
        omega
    · rw [refScan_end _ _ (by omega), windowsFrom_end _ (by omega)]
      rfl

/-- R116: a decode that passes the header check counts every window it reads but the SKIPs. -/
theorem refDecode_counted {c : Config} {buf : Nat → Byte} {len : Nat} (hlen : 2 ≤ len) (hmarker : buf 1 = MARKER)
    (fb : Nat → Byte) :
    (refDecode c buf len fb).counted + (windowsRead buf len).countP (fun r => (decodeRecord r).cls = .skip) =
      (windowsRead buf len).length := by
  rw [refDecode_of_header hlen hmarker]
  exact (refScan_counted c buf len (windowCount len) 2 refStart rfl).trans (Nat.zero_add _)

/-! ### A whole decode -/

/-- R113: an accepted START fixes the outcome to be the reference function's. -/
theorem outcomeOf_afterStart (s : State) :
    outcomeOf s.afterStart = refDecode s.cfg s.ibuf.read s.bufLen.toNat s.fb.read := by
  rcases header_cases s.bufLen.toNat (s.ibuf.read 1) with ⟨hlen, hmarker⟩ | hbad
  · rw [afterStart_of_header hlen hmarker, outcomeOf_of_clear rfl, refDecode_of_header hlen hmarker]
    rfl
  · rw [afterStart_of_bad_header hbad, outcomeOf_of_idle rfl, refDecode_of_bad_header hbad]
    rfl

/-- Settles O53: the step is the accepted START, so the outcome is `outcomeOf_afterStart`'s. -/
theorem startFixesTheOutcome : Obligations.StartFixesTheOutcome := by
  intro s t rest hinv hidle hturn hstep
  obtain rfl : { s with script := rest }.afterStart = t := by
    simpa [step_of_accepted_start hturn rfl hidle hinv.cfgWf] using hstep
  exact .of_eq (outcomeOf_afterStart _)

/-- What a decode from the idle state `s` leaves when it has finished, `s` being the state before its START. -/
structure DecodeEnd (s t : State) : Prop where
  phase : t.phase = .idle
  busy : t.status.busy = false
  done : t.status.done = true
  bufLen : t.bufLen = s.bufLen
  ibuf : t.ibuf = s.ibuf
  result : (resultOf t).agree s.cfg (refDecode s.cfg s.ibuf.read s.bufLen.toNat s.fb.read)
  windows : 2 ≤ s.bufLen.toNat → s.ibuf.read 1 = MARKER →
    t.rp.toNat = 2 + 4 * (windowsRead s.ibuf.read s.bufLen.toNat).length ∧
      t.latch = (windowsRead s.ibuf.read s.bufLen.toNat).getLastD s.latch

theorem FrameInv.afterStart (s : State) : FrameInv s.afterStart := by
  unfold State.afterStart
  split
  · exact .clearBegun s
  · exact .of_idle rfl

theorem afterStart_input (s : State) :
    s.afterStart.ibuf = s.ibuf ∧ s.afterStart.bufLen = s.bufLen ∧ s.afterStart.taint = false := by
  unfold State.afterStart
  split <;> exact ⟨rfl, rfl, rfl⟩

/-- The SRD's steps from an accepted START to IDLE are a decode. -/
theorem DecodeEnd.of_decodeFrom {s t : State} (h : DecodeFrom s.afterStart t) (hinv : Inv t)
    (hidle : t.phase = .idle) (hdone : t.status.done = true) : DecodeEnd s t := by
  obtain ⟨hibuf, hbufLen, -⟩ := afterStart_input s
  have houtcome := h.outcome
  rw [outcomeOf_of_idle hidle, outcomeOf_afterStart, afterStart_cfg] at houtcome
  refine ⟨hidle, Bool.eq_false_iff.2 fun hbusy => hinv.busyIff.1 hbusy hidle, hdone,
    h.input.bufLen.trans hbufLen, h.input.ibuf.trans hibuf, houtcome, fun hlen hmarker => ?_⟩
  have hpointer := h.pointer
  have hlatch := h.latch
  have hwindows : windowsLeft s.clearBegun = windowsRead s.ibuf.read s.bufLen.toNat := windowsLeft_of_clear rfl
  have hstart : scanPointer s.clearBegun = 2 := rfl
  have hend : scanPointer t = t.rp.toNat := by simp [scanPointer, hidle]
  rw [afterStart_of_header hlen hmarker, hwindows, windowsLeft_of_idle hidle] at hpointer hlatch
  rw [hstart, hend] at hpointer
  exact ⟨hpointer, hlatch⟩

/-- R112, R113: from every idle state a START and the SRD's steps alone make a decode, within R112's bound. -/
theorem exists_decodeEnd {s : State} (hinv : Inv s) (hidle : s.phase = .idle) :
    ∃ n t, n ≤ stepBound s.cfg s.ibuf.read s.bufLen.toNat ∧ runFor (n + 1) (withStart s) = .next t ∧
      DecodeEnd s t := by
  let u := { s with script := [] }.afterStart
  have hu : Inv u := (hinv.withScript []).afterStart
  have hscript : u.script = [] := afterStart_script _
  obtain ⟨n, t, hn, hrun, ht, hdone⟩ := decode_finishes_within hu hscript afterStart_done
  have hfrom : DecodeFrom u u := .refl (afterStart_input _).2.2 (.afterStart _)
  obtain ⟨hinvEnd, hend⟩ := srdRun_keeps DecodeFrom.srdMove hu hscript hfrom hrun
  have hdecode : DecodeEnd { s with script := [] } t := .of_decodeFrom hend hinvEnd ht hdone
  exact ⟨n, t, hn.trans (stepsLeft_afterStart_le _), (runFor_succ (step_withStart hinv hidle)).trans hrun,
    { hdecode with }⟩

/-- Settles O51: such a decode exists, and its result is the reference function's. -/
theorem decodeMatchesReference : Obligations.DecodeMatchesReference := by
  intro s hinv hidle
  obtain ⟨n, t, hn, hrun, h⟩ := exists_decodeEnd hinv hidle
  exact ⟨n, t, hn, hrun, h.phase, h.busy, h.done, h.bufLen, h.ibuf, h.result⟩

/-- Settles O54: both decodes return what the reference function returns, which does not depend on FB where the
header check passes. -/
theorem decodeIsIdempotent : Obligations.DecodeIsIdempotent := by
  intro s₁ s₂ hinv₁ hinv₂ hidle₁ hidle₂ hcfg hlen hibuf hfb
  obtain ⟨n₁, t₁, -, hrun₁, h₁⟩ := exists_decodeEnd hinv₁ hidle₁
  obtain ⟨n₂, t₂, -, hrun₂, h₂⟩ := exists_decodeEnd hinv₂ hidle₂
  have hreference := refDecode_agree (c := s₁.cfg) (len := s₁.bufLen.toNat)
    (fun a ha => hibuf a (Nat.lt_of_lt_of_le ha hinv₁.bufLenLegal)) hfb
  have hresult₂ := h₂.result
  rw [← hcfg, ← hlen] at hresult₂
  exact ⟨n₁, t₁, n₂, t₂, hrun₁, hrun₂, h₁.done, h₂.done, h₁.phase, h₂.phase,
    DecodeResult.agree_trans h₁.result (DecodeResult.agree_trans hreference (DecodeResult.agree_symm hresult₂))⟩

/-- The registers that a decode leaves, where the reference function's result is known. -/
theorem DecodeEnd.registers {s t : State} (h : DecodeEnd s t) {r : DecodeResult}
    (hr : refDecode s.cfg s.ibuf.read s.bufLen.toNat s.fb.read = r) :
    t.status = ⟨false, true, r.unk, r.term⟩ ∧ t.segCount.toNat = r.seg ∧ t.malCount.toNat = r.mal ∧
      ∀ a, a < s.cfg.fbSize → t.fb.read a = r.fb a := by
  obtain ⟨hfb, hseg, hmal, hunk, hterm⟩ := hr ▸ h.result
  have hstatus : t.status = ⟨t.status.busy, t.status.done, t.status.unknownMsg, t.status.termSeen⟩ := rfl
  rw [h.busy, h.done, show t.status.unknownMsg = r.unk from hunk, show t.status.termSeen = r.term from hterm]
    at hstatus
  exact ⟨hstatus, hseg, hmal, hfb⟩

/-- Settles O56: a buffer of two bytes has no window. -/
theorem twoByteBufferClearsTheFrame : Obligations.TwoByteBufferClearsTheFrame := by
  intro s hinv hidle hlen hmarker
  obtain ⟨n, t, -, hrun, h⟩ := exists_decodeEnd hinv hidle
  have htwo : s.bufLen.toNat = 2 := congrArg BitVec.toNat hlen
  have hnone : windowsRead s.ibuf.read s.bufLen.toNat = [] := by rw [htwo]; rfl
  have href : refDecode s.cfg s.ibuf.read s.bufLen.toNat s.fb.read = refStart := by
    rw [refDecode_of_header htwo.ge hmarker, htwo]
    rfl
  obtain ⟨hstatus, hseg, hmal, hfb⟩ := h.registers href
  obtain ⟨-, hlatch⟩ := h.windows htwo.ge hmarker
  rw [hnone] at hlatch
  exact ⟨n, t, hrun, h.phase, hstatus, BitVec.eq_of_toNat_eq hseg, BitVec.eq_of_toNat_eq hmal, hlatch, hfb⟩

/-- Settles O58: the reference function's one turn is that SPAN's, on a clear frame. -/
theorem singleRecordDecode : Obligations.SingleRecordDecode := by
  rintro s ex1 ex2 ey x2b x1b yb y x1 x2 hinv hidle hlen hmarker hdecode rfl rfl rfl hvalid
  obtain ⟨n, t, -, hrun, h⟩ := exists_decodeEnd hinv hidle
  have hsix : s.bufLen.toNat = 6 := congrArg BitVec.toNat hlen
  have hspan : decodeRecord (windowAt s.ibuf.read 2) = .span ex1 ex2 ey x2b x1b yb :=
    congrArg Prod.fst (Except.ok.inj hdecode)
  have href : refDecode s.cfg s.ibuf.read s.bufLen.toNat s.fb.read =
      countSpan s.cfg (adjustedY s.cfg yb ey) (adjustedX s.cfg x1b ex1) (adjustedX s.cfg x2b ex2) refStart := by
    rw [refDecode_of_header (by omega) hmarker, hsix]
    exact refScan_of_span 0 refStart (by decide) hspan
  rw [countSpan, if_pos hvalid] at href
  obtain ⟨hstatus, hseg, hmal, hfb⟩ := h.registers href
  exact ⟨n, t, hrun, h.phase, BitVec.eq_of_toNat_eq hseg, BitVec.eq_of_toNat_eq hmal, hstatus,
    fun a ha => (hfb a ha).trans (refPaint_interval ..)⟩

/-- Settles O59: the reference function counts each window it reads but the SKIPs, and the read pointer passes
each by four bytes. -/
theorem windowAccounting : Obligations.WindowAccounting := by
  intro s hinv hidle hlen hmarker
  obtain ⟨n, t, -, hrun, h⟩ := exists_decodeEnd hinv hidle
  obtain ⟨hrp, -⟩ := h.windows hlen hmarker
  obtain ⟨hstatus, hseg, hmal, -⟩ := h.registers rfl
  have hcounted := refDecode_counted (c := s.cfg) hlen hmarker s.fb.read
  rw [DecodeResult.counted] at hcounted
  refine ⟨n, t, hrun, h.phase, h.done, ?_, hrp, windowsFrom_length_le _ _ _ _⟩
  rw [hseg, hmal, hstatus]
  dsimp only
  omega

end Sys2Proof.Machine
end

section
/-! The family of spec/41_record_classify.md: what TERM and SKIP do, what every record's action leaves as it was, and
the decode that a TERM ends at its first window (R130 to R134, R105, R109). -/

namespace Sys2Proof.Machine

/-! ### SKIP -/

/-- R133: the flags alone say whether a record is a SKIP. -/
theorem decodeRecord_cls_eq_skip_iff (r : Record) :
    (decodeRecord r).cls = .skip ↔ r.flags &&& MK_MASK ≠ 0#8 := by
  rw [decodeRecord, cls_decodeWord, classify_eq_skip_iff]
  exact not_congr (fieldMK_word_eq_zero_iff r)

/-- R133: a record with a flag of `MK_MASK` set is not the all-zero record. -/
theorem word_ne_zero_of_marked {r : Record} (h : r.flags &&& MK_MASK ≠ 0#8) : r.word ≠ 0#32 := by
  intro hzero
  obtain ⟨-, -, -, hflags⟩ := (word_eq_zero_iff r).1 hzero
  exact h (by rw [hflags]; decide)

/-- Settles O11: the flags decide the class, and rule out the zero word; `exec_of_skip` is the five rows' action. -/
theorem skipWritesNoState : Obligations.SkipWritesNoState := by
  refine ⟨fun r => ?_, fun i s hskip => exec_of_skip hskip s⟩
  rw [decodeRecord_cls_eq_skip_iff]
  exact ⟨fun hmarked => ⟨word_ne_zero_of_marked hmarked, hmarked⟩, And.right⟩

/-! ### TERM -/

theorem exec_term (s : State) :
    exec .term s = .next (finish { s with status := { s.status with termSeen := true } }) := rfl

/-- R110, R131: without a hazard TERM writes the phase and STATUS. -/
theorem exec_term_of_untainted {s : State} (h : s.taint = false) :
    exec .term s = .next { s with phase := .idle, status := ⟨false, true, s.status.unknownMsg, true⟩ } := by
  rw [exec_term]
  exact congrArg Host.Outcome.next (finish_of_untainted h)

/-- Settles O10: TERM is a finish, exact without a hazard and with drawn results after one. -/
theorem termStopsTheDecode : Obligations.TermStopsTheDecode := by
  refine fun s => ⟨exec_term_of_untainted, fun htaint => ?_⟩
  rw [exec_term]
  exact congrArg Host.Outcome.next (finish_of_tainted htaint)

/-! ### The frame of a record's action -/

/-- R155 to R157: the range check writes the counts, L and the phase, and nothing else. -/
theorem checkSpan_frame (s : State) : ∃ seg mal l phase,
    checkSpan s = { s with segCount := seg, malCount := mal, l := l, phase := phase } := by
  rcases checkSpan_cases s with ⟨-, hcheck⟩ | ⟨-, hcheck⟩
  · exact ⟨_, _, _, _, hcheck⟩
  · exact ⟨_, _, _, _, hcheck⟩

/-- Settles O17: a TERM is a finish, exact where TAINT is clear; a SKIP leaves the whole state; a SPAN writes the
coordinates and what the range check writes. -/
theorem recordActionFrame : Obligations.RecordActionFrame := by
  intro i s t hexec
  rcases exec_cases hexec with ⟨hterm, rfl⟩ | ⟨hskip, rfl⟩ | ⟨ex1, ex2, ey, x2b, x1b, yb, rfl, rfl⟩
  · obtain rfl := cls_eq_term_iff.1 hterm
    refine ⟨by simp, fun hclean => ?_, by simp, absurd rfl, nofun⟩
    have hexact := exec_term_of_untainted (hclean.resolve_right (absurd rfl))
    rw [Host.Outcome.next.inj (hexec.symm.trans hexact)]
    exact ⟨fun _ => rfl, rfl, rfl, fun _ => ⟨rfl, rfl⟩⟩
  · simp
  · obtain ⟨seg, mal, l, phase, hcheck⟩ := checkSpan_frame
      (setCoords (adjustedY s.cfg yb ey) (adjustedX s.cfg x1b ex1) (adjustedX s.cfg x2b ex2) s)
    rw [hcheck]
    exact ⟨⟨rfl, rfl, rfl, rfl, rfl, rfl, rfl, rfl, rfl, fun _ => rfl⟩,
      fun _ => ⟨fun _ => rfl, rfl, rfl, absurd rfl⟩, absurd rfl, fun _ => rfl, nofun⟩

/-! ### A TERM as the first window -/

theorem decodeRecord_windowAt_of_zero {buf : Nat → Byte} {p : Nat} (h : ∀ k, k < 4 → buf (p + k) = 0#8) :
    decodeRecord (windowAt buf p) = .term := by
  have hzero : (windowAt buf p).word = 0#32 := (word_eq_zero_iff _).2
    ⟨h 0 (by decide), h 1 (by decide), h 2 (by decide), h 3 (by decide)⟩
  rw [decodeRecord, hzero, decodeWord_zero]

section TermFirst
variable {buf : Nat → Byte} {len : Nat} (hlen : 6 ≤ len) (hterm : decodeRecord (windowAt buf 2) = .term)
include hlen

theorem exists_windowCount_eq_succ : ∃ k, windowCount len = k + 1 :=
  Nat.exists_eq_add_one.2 (Nat.div_pos (by omega) (by decide))

include hterm

/-- R70: the windows of a decode end at a TERM. -/
theorem windowsRead_of_term_first : windowsRead buf len = [windowAt buf 2] := by
  obtain ⟨k, hcount⟩ := exists_windowCount_eq_succ hlen
  rw [windowsRead, hcount, windowsFrom_step k hlen, if_pos ((classify_word_eq_term_iff _).2 hterm)]

theorem refDecode_of_term_first (hmarker : buf 1 = MARKER) (c : Config) (fb : Nat → Byte) :
    refDecode c buf len fb = { refStart with term := true } := by
  obtain ⟨k, hcount⟩ := exists_windowCount_eq_succ hlen
  rw [refDecode_of_header (by omega) hmarker, hcount, refScan_of_term k refStart hlen hterm]

end TermFirst

/-- Settles O57: the decode reads the TERM's window alone, and the reference function's result is the cleared frame
with TERM_SEEN. -/
theorem termFirstLeavesTheFrameClear : Obligations.TermFirstLeavesTheFrameClear := by
  intro s hinv hidle hlen hmarker hzero
  obtain ⟨n, t, -, hrun, h⟩ := exists_decodeEnd hinv hidle
  have hterm : decodeRecord (windowAt s.ibuf.read 2) = .term := decodeRecord_windowAt_of_zero hzero
  obtain ⟨hstatus, hseg, hmal, hfb⟩ := h.registers (refDecode_of_term_first hlen hterm hmarker s.cfg s.fb.read)
  obtain ⟨hrp, -⟩ := h.windows (by omega) hmarker
  rw [windowsRead_of_term_first hlen hterm] at hrp
  exact ⟨n, t, hrun, h.phase, hstatus, BitVec.eq_of_toNat_eq hseg, BitVec.eq_of_toNat_eq hmal,
    BitVec.eq_of_toNat_eq hrp, hfb⟩

end Sys2Proof.Machine
end

section
/-! The family of spec/42_span_paint.md: the action of a SPAN by its operands, which bytes are in range, the encodings
that are the same value, and the two steps of PAINT (R150 to R159, R162). -/

namespace Sys2Proof.Machine

/-! ### The action of a SPAN -/

theorem exec_span (ex1 ex2 ey : Bool) (x2b x1b yb : Byte) (s : State) :
    exec (.span ex1 ex2 ey x2b x1b yb) s =
      .next (checkSpan (setCoords (adjustedY s.cfg yb ey) (adjustedX s.cfg x1b ex1) (adjustedX s.cfg x2b ex2) s)) :=
  rfl

theorem checkSpan_of_valid {s : State} (h : spanValid s.cfg s.y s.x1 s.x2 = true) : checkSpan s = acceptSpan s :=
  if_pos h

theorem checkSpan_of_invalid {s : State} (h : spanValid s.cfg s.y s.x1 s.x2 = false) : checkSpan s = rejectSpan s :=
  if_neg (Bool.eq_false_iff.1 h)

/-- R155 to R157: the range check leaves the coordinates. -/
theorem checkSpan_coords (s : State) : (checkSpan s).y = s.y ∧ (checkSpan s).x1 = s.x1 ∧ (checkSpan s).x2 = s.x2 := by
  obtain ⟨seg, mal, l, phase, hcheck⟩ := checkSpan_frame s
  rw [hcheck]
  exact ⟨rfl, rfl, rfl⟩

section Action
variable {ex1 ex2 ey : Bool} {x2b x1b yb : Byte} {s : State}

/-- R153: a SPAN writes its coordinates whatever the range check answers. -/
theorem exec_span_coords {t : State} (h : exec (.span ex1 ex2 ey x2b x1b yb) s = .next t) :
    t.y = adjustedY s.cfg yb ey ∧ t.x1 = adjustedX s.cfg x1b ex1 ∧ t.x2 = adjustedX s.cfg x2b ex2 := by
  obtain rfl := Host.Outcome.next.inj h
  exact checkSpan_coords _

/-- R155: SEG_COUNT grows exactly where the range check passes; where it fails MAL_COUNT does. -/
theorem exec_span_counts_iff {t : State} (h : exec (.span ex1 ex2 ey x2b x1b yb) s = .next t) :
    (t.segCount = s.segCount + 1#32 ∧ t.malCount = s.malCount) ↔ spanValid s.cfg t.y t.x1 t.x2 = true := by
  obtain ⟨hy, hx1, hx2⟩ := exec_span_coords h
  rw [hy, hx1, hx2]
  have hne : s.segCount ≠ s.segCount + 1#32 := by bv_omega
  obtain rfl := Host.Outcome.next.inj h
  rcases checkSpan_cases (setCoords (adjustedY s.cfg yb ey) (adjustedX s.cfg x1b ex1) (adjustedX s.cfg x2b ex2) s)
    with ⟨hvalid, hcheck⟩ | ⟨hvalid, hcheck⟩
  · rw [hcheck]
    exact iff_of_true ⟨rfl, rfl⟩ hvalid
  · rw [hcheck]
    exact iff_of_false (fun ⟨hseg, _⟩ => hne hseg) (Bool.eq_false_iff.1 hvalid)

end Action

/-- R150: the action by the coordinates, which are the rules' sums and differences of bytes, bits and offsets. -/
theorem exec_span_of_coords {ex1 ex2 ey : Bool} {x2b x1b yb : Byte} {s : State} {y x1 x2 : Int}
    (hy : y = (yb.toNat : Int) + (if ey then 255 else 0) - s.cfg.yOff)
    (hx1 : x1 = (x1b.toNat : Int) + (if ex1 then 255 else 0) - s.cfg.xOff)
    (hx2 : x2 = (x2b.toNat : Int) + (if ex2 then 255 else 0) - s.cfg.xOff) :
    exec (.span ex1 ex2 ey x2b x1b yb) s = .next (checkSpan (setCoords y x1 x2 s)) := by
  rw [exec_span, adjustedY_eq, adjustedX_eq, adjustedX_eq, hy, hx1, hx2]

/-- Settles O12: the range check fails, so the action is R156's. -/
theorem spanOutOfRangeIsCounted : Obligations.SpanOutOfRangeIsCounted := by
  intro ex1 ex2 ey x2b x1b yb s y x1 x2 hy hx1 hx2 hrange
  have hinvalid : spanValid s.cfg y x1 x2 = false := Bool.eq_false_iff.2 (mt (spanValid_iff ..).1 hrange)
  rw [exec_span_of_coords hy hx1 hx2]
  exact congrArg Host.Outcome.next (checkSpan_of_invalid hinvalid)

/-- Settles O13: the range check passes, so the action is R157's. -/
theorem spanInRangeIsAccepted : Obligations.SpanInRangeIsAccepted := by
  intro ex1 ex2 ey x2b x1b yb s y x1 x2 hy hx1 hx2 hrange
  have hvalid : spanValid s.cfg y x1 x2 = true := (spanValid_iff ..).2 hrange
  rw [exec_span_of_coords hy hx1 hx2]
  exact congrArg Host.Outcome.next (checkSpan_of_valid hvalid)

/-! ### Bytes and coordinates -/

section Reference
variable {c : Config} (h : c.hasReferenceGeometry) (b : Byte) (e : Bool)
include h

theorem adjustedY_of_reference : adjustedY c b e = (extend b e : Int) - 11 := by
  obtain ⟨hyOff, -⟩ := h
  rw [adjustedY, hyOff]
  rfl

theorem adjustedX_of_reference : adjustedX c b e = (extend b e : Int) - 41 := by
  obtain ⟨-, hxOff, -⟩ := h
  rw [adjustedX, hxOff]
  rfl

end Reference

/-- Settles O14: the coordinates are the exact differences, with the reference geometry's offsets. -/
theorem spanCalibratesCoordinates : Obligations.SpanCalibratesCoordinates := by
  intro ex1 ex2 ey x2b x1b yb s hgeometry
  obtain ⟨hy, hx1, hx2⟩ := exec_span_coords (exec_span ex1 ex2 ey x2b x1b yb s)
  exact ⟨_, exec_span .., hy.trans (adjustedY_of_reference hgeometry ..),
    hx1.trans (adjustedX_of_reference hgeometry ..), hx2.trans (adjustedX_of_reference hgeometry ..)⟩

/-- R154: which bytes are in `[0, max]` after the subtraction of `off`, each with its bit: without it the byte alone
reaches `off`, with it the byte passes `off` and may pass `max`. -/
theorem extend_sub_in_range_iff {off max : Nat} (hoff : off ≤ 255) (hmax : 255 ≤ max + off) (b : Byte) (e : Bool) :
    (0 ≤ (extend b e : Int) - off ∧ (extend b e : Int) - off ≤ max) ↔
      (e = false ∧ off ≤ b.toNat) ∨ (e = true ∧ b.toNat ≤ max + off - 255) := by
  have hb : b.toNat ≤ 255 := Nat.le_of_lt_succ b.isLt
  cases e
  · rw [extend_false]
    simp only [true_and, reduceCtorEq, false_and, or_false]
    omega
  · rw [extend_true]
    simp only [true_and, reduceCtorEq, false_and, false_or]
    omega

/-- Settles O15: each coordinate is in range by its own byte and bit, and the range check asks all three. -/
theorem spanValidityByBytes : Obligations.SpanValidityByBytes := by
  intro ex1 ex2 ey x2b x1b yb s t hgeometry hexec
  have ⟨_, _, hyMax, hxMax⟩ := hgeometry
  have hcounts := exec_span_counts_iff hexec
  rw [spanValid_iff, hyMax, hxMax] at hcounts
  obtain ⟨hy, hx1, hx2⟩ := exec_span_coords hexec
  rw [adjustedY_of_reference hgeometry] at hy
  rw [adjustedX_of_reference hgeometry] at hx1 hx2
  have hyRange := hy ▸ extend_sub_in_range_iff (off := 11) (max := 289) (by decide) (by decide) yb ey
  have hx1Range := hx1 ▸ extend_sub_in_range_iff (off := 41) (max := 356) (by decide) (by decide) x1b ex1
  have hx2Range := hx2 ▸ extend_sub_in_range_iff (off := 41) (max := 356) (by decide) (by decide) x2b ex2
  exact ⟨hcounts.trans (and_congr hyRange (and_congr hx1Range hx2Range)), hyRange, hx1Range, hx2Range⟩

/-- R76, R162: the value 255 has two encodings. -/
theorem extend_alias : extend 0xFF#8 false = extend 0x00#8 true := rfl

theorem adjustedY_alias (c : Config) : adjustedY c 0xFF#8 false = adjustedY c 0x00#8 true :=
  congrArg (adjust c.yOff) extend_alias

theorem adjustedX_alias (c : Config) : adjustedX c 0xFF#8 false = adjustedX c 0x00#8 true :=
  congrArg (adjust c.xOff) extend_alias

/-- Settles O16: a SPAN's action looks at its bytes and bits through the coordinates alone. -/
theorem aliasedEncodingsActAlike : Obligations.AliasedEncodingsActAlike := by
  intro e1 e2 b1 b2 s
  refine ⟨?_, ?_, ?_, ?_⟩
  · rw [exec_span, exec_span, adjustedY_alias]
  · rw [exec_span, exec_span, adjustedX_alias]
  · rw [exec_span, exec_span, adjustedX_alias]
  · intro hgeometry
    have hy : adjustedY s.cfg 0x00#8 true = 244 := by
      rw [adjustedY_of_reference hgeometry]
      decide
    have hx : adjustedX s.cfg 0x00#8 true = 214 := by
      rw [adjustedX_of_reference hgeometry]
      decide
    exact ⟨(adjustedY_alias _).trans hy, hy, (adjustedX_alias _).trans hx, hx⟩

/-! ### PAINT -/

/-- Settles O22: by the two moves of PAINT; a pixel of a valid span is a byte of FB. -/
theorem paintStep_effect : Obligations.PaintStep := by
  intro s rest hturn hphase hy ⟨hl, hx2⟩
  refine ⟨fun hlx2 => ?_, fun hend => step_of_srdMove hturn (.paintEnd hphase hend)⟩
  obtain ⟨hlow, hhigh⟩ := pixelOffset_in_fb s.cfg hy ⟨hl, Int.le_of_lt (Int.lt_of_lt_of_le hlx2 hx2)⟩
  exact ⟨s.fb.write (pixelOffset s.cfg s.y s.l).toNat PIX_ON, _, Int.toNat_of_nonneg hlow,
    step_of_srdMove hturn (.paint hphase hlx2 hlow hhigh), s.fb.read_write_same _ _,
    fun b hb => s.fb.read_write_other hb _⟩

/-- Settles O23: the SPAN is accepted, and since L starts at the end column or past it, PAINT's move is its end. -/
theorem emptySpanPaintsNothing : Obligations.EmptySpanPaintsNothing := by
  intro ex1 ex2 ey x2b x1b yb s hvalid hempty
  let t := acceptSpan (setCoords (adjustedY s.cfg yb ey) (adjustedX s.cfg x1b ex1) (adjustedX s.cfg x2b ex2) s)
  have hexec : exec (.span ex1 ex2 ey x2b x1b yb) s = .next t :=
    congrArg Host.Outcome.next (checkSpan_of_valid hvalid)
  have hstep : step { t with script := [] } = .next { t with script := [], phase := .scan } :=
    step_of_srdMove (.inr ⟨rfl, rfl⟩) (.paintEnd rfl hempty)
  exact ⟨t, _, hexec, rfl, rfl, rfl, hstep, rfl, rfl, rfl⟩

end Sys2Proof.Machine
end

section
/-! The family of spec/42_span_paint.md: the frame that a whole decode leaves, as the union of the accepted spans
(R161). -/

namespace Sys2Proof.Machine

/-- R155, R158: the pixel at offset `a` lies in the span with these coordinates, and the span is accepted. -/
def spanCovers (c : Config) (y x1 x2 : Int) (a : Nat) : Bool :=
  spanValid c y x1 x2 && decide (pixelOffset c y x1 ≤ (a : Int) ∧ (a : Int) < pixelOffset c y x2)

/-- R161: the window is an accepted SPAN that covers the pixel at offset `a`. -/
def windowCovers (c : Config) (a : Nat) (r : Record) : Bool :=
  match decodeRecord r with
  | .span ex1 ex2 ey x2b x1b yb => spanCovers c (adjustedY c yb ey) (adjustedX c x1b ex1) (adjustedX c x2b ex2) a
  | _ => false

section Covers
variable {c : Config} {a : Nat} {r : Record}

theorem spanCovers_iff {y x1 x2 : Int} : spanCovers c y x1 x2 a = true ↔
    spanValid c y x1 x2 = true ∧ pixelOffset c y x1 ≤ (a : Int) ∧ (a : Int) < pixelOffset c y x2 := by
  rw [spanCovers, Bool.and_eq_true, decide_eq_true_iff]

theorem windowCovers_of_span {ex1 ex2 ey : Bool} {x2b x1b yb : Byte}
    (h : decodeRecord r = .span ex1 ex2 ey x2b x1b yb) : windowCovers c a r =
      spanCovers c (adjustedY c yb ey) (adjustedX c x1b ex1) (adjustedX c x2b ex2) a := by
  rw [windowCovers, h]

theorem windowCovers_of_cls_ne_span (h : (decodeRecord r).cls ≠ .span) : windowCovers c a r = false := by
  unfold windowCovers
  split
  · next hspan => exact absurd (congrArg Instr.cls hspan) h
  · rfl

theorem windowCovers_iff : windowCovers c a r = true ↔
    ∃ ex1 ex2 ey x2b x1b yb, decodeRecord r = .span ex1 ex2 ey x2b x1b yb ∧
      spanValid c (adjustedY c yb ey) (adjustedX c x1b ex1) (adjustedX c x2b ex2) = true ∧
      pixelOffset c (adjustedY c yb ey) (adjustedX c x1b ex1) ≤ (a : Int) ∧
      (a : Int) < pixelOffset c (adjustedY c yb ey) (adjustedX c x2b ex2) := by
  constructor
  · intro h
    by_cases hcls : (decodeRecord r).cls = .span
    · rw [windowCovers_of_span (decodeWord_of_cls_span hcls)] at h
      exact ⟨_, _, _, _, _, _, decodeWord_of_cls_span hcls, spanCovers_iff.1 h⟩
    · rw [windowCovers_of_cls_ne_span hcls] at h
      cases h
  · rintro ⟨ex1, ex2, ey, x2b, x1b, yb, hspan, hcovers⟩
    exact (windowCovers_of_span hspan).trans (spanCovers_iff.2 hcovers)

/-- R158: a SPAN's turn of R113's loop sets the bytes that it covers. -/
theorem countSpan_fb (y x1 x2 : Int) (acc : DecodeResult) :
    (countSpan c y x1 x2 acc).fb a = if spanCovers c y x1 x2 a then PIX_ON else acc.fb a := by
  unfold countSpan
  cases hvalid : spanValid c y x1 x2
  · simp [spanCovers, hvalid]
  · simp only [if_true, refPaint_interval, spanCovers_iff, hvalid, true_and]

end Covers

/-- R161: R113's loop sets the bytes that some window it reads covers, in whatever order, and leaves the others. -/
theorem refScan_fb (c : Config) (buf : Nat → Byte) (len a : Nat) : ∀ (k p : Nat) (acc : DecodeResult),
    (refScan c buf len k p acc).fb a =
      if (windowsFrom buf len k p).any (windowCovers c a) then PIX_ON else acc.fb a
  | 0, _, _ => rfl
  | k + 1, p, acc => by
    by_cases hp : p + 4 ≤ len
    · rw [windowsFrom_step k hp]
      simp only [classify_word_eq_term_iff]
      rcases decodeRecord_cases (windowAt buf p) with ⟨hi, -⟩ | ⟨hi, -⟩ | ⟨hi, -⟩
      · have hnot : windowCovers c a (windowAt buf p) = false := windowCovers_of_cls_ne_span (by simp [hi, Instr.cls])
        rw [refScan_of_term _ _ hp hi, if_pos hi]
        simp [hnot]
      · have hnot : windowCovers c a (windowAt buf p) = false := windowCovers_of_cls_ne_span (by simp [hi])
        have hne : decodeRecord (windowAt buf p) ≠ .term := fun hi' => by simp [hi', Instr.cls] at hi
        rw [refScan_of_skip _ _ hp hi, if_neg hne, refScan_fb c buf len a k (p + 4)]
        simp [hnot]
      · have hne : decodeRecord (windowAt buf p) ≠ .term := fun hi' => nomatch hi.symm.trans hi'
        rw [refScan_of_span _ _ hp hi, if_neg hne, refScan_fb c buf len a k (p + 4), countSpan_fb,
          ← windowCovers_of_span hi, List.any_cons]
        cases windowCovers c a (windowAt buf p) <;> simp
    · rw [refScan_end _ _ (by omega), windowsFrom_end _ (by omega)]
      rfl

/-- R105, R161: where the header check passes, the frame is clear but for what the windows read cover. -/
theorem refDecode_fb {c : Config} {buf : Nat → Byte} {len : Nat} (hlen : 2 ≤ len) (hmarker : buf 1 = MARKER)
    (fb : Nat → Byte) (a : Nat) :
    (refDecode c buf len fb).fb a = if (windowsRead buf len).any (windowCovers c a) then PIX_ON else PIX_OFF := by
  rw [refDecode_of_header hlen hmarker]
  exact refScan_fb c buf len a (windowCount len) 2 refStart

/-- Settles O60: the decode returns the reference function's frame, which is 255 where a window read covers the byte. -/
theorem frameIsUnionOfSpans : Obligations.FrameIsUnionOfSpans := by
  intro s hinv hidle hlen hmarker
  obtain ⟨n, t, -, hrun, h⟩ := exists_decodeEnd hinv hidle
  obtain ⟨-, -, -, hfb⟩ := h.registers rfl
  refine ⟨n, t, hrun, h.phase, h.done, fun a ha => ?_⟩
  simp only [← windowCovers_iff, ← List.any_eq_true]
  rw [hfb a ha, refDecode_fb hlen hmarker]
  cases (windowsRead s.ibuf.read s.bufLen.toNat).any (windowCovers s.cfg a) <;> decide

end Sys2Proof.Machine
end

section
/-! The family of spec/70_reset_and_hazards.md: the host's accesses to the bytes of FB and IBUF, which are hazards
while BUSY (R206, R207), and the platform's reset (R200, R201). -/

namespace Sys2Proof.Machine

/-! ### Byte accesses -/

section ByteAccess
variable {s : State} {rest : List Turn} {off : Nat} {v : Word}

/-- R56: a byte read inside FB is FB's read. -/
theorem step_readFb (hoff : off < s.cfg.fbSize) (h : hostNext s (.read (.offset .fb off) 8) rest) :
    step s = .next (readFb off { s with script := rest }) := by
  rw [step_of_hostNext h, hostStep_read (by rfl), hostRead, bytePort_of_defined ⟨rfl, hoff⟩]

/-- R56: a byte write inside FB is FB's write. -/
theorem step_writeFb (hoff : off < s.cfg.fbSize) (h : hostNext s (.write (.offset .fb off) 8 v) rest) :
    step s = .next (writeFb off (v.setWidth 8) { s with script := rest }) := by
  rw [step_of_hostNext h, hostStep_write (by rfl), hostWrite, bytePort_of_defined ⟨rfl, hoff⟩]

/-- R56: a byte read inside IBUF is IBUF's read. -/
theorem step_readIbuf (hoff : off < s.cfg.ibufSize) (h : hostNext s (.read (.offset .ibuf off) 8) rest) :
    step s = .next (readIbuf off { s with script := rest }) := by
  rw [step_of_hostNext h, hostStep_read (by rfl), hostRead, bytePort_of_defined ⟨rfl, hoff⟩]

/-- R56: a byte write inside IBUF is IBUF's write. -/
theorem step_writeIbuf (hoff : off < s.cfg.ibufSize) (h : hostNext s (.write (.offset .ibuf off) 8 v) rest) :
    step s = .next (writeIbuf off (v.setWidth 8) { s with script := rest }) := by
  rw [step_of_hostNext h, hostStep_write (by rfl), hostWrite, bytePort_of_defined ⟨rfl, hoff⟩]

end ByteAccess

/-- R206: an FB read while BUSY is the next draw. -/
theorem readFb_of_busy {s : State} (hbusy : s.status.busy = true) (off : Nat) :
    readFb off s = useDraw (hostReply ((Config.freeByte s.draws off).setWidth 32) s) := by simp [readFb, hbusy]

/-- R206: an FB read in a state that is not BUSY is exact. -/
theorem readFb_of_not_busy {s : State} (hbusy : s.status.busy = false) (off : Nat) :
    readFb off s = hostReply ((s.fb.read off).setWidth 32) s := by simp [readFb, hbusy]

/-- Settles O32: the read by BUSY, and the write by what a byte memory returns after it. -/
theorem frameBufferHostAccess : Obligations.FrameBufferHostAccess := by
  intro s rest off v hoff
  have hbusy := readFb_of_busy (s := { s with script := rest })
  have hexact := readFb_of_not_busy (s := { s with script := rest })
  refine ⟨fun h hb => ?_, fun h hb => ?_, fun h => ⟨s.fb.write off (v.setWidth 8), ?_, ?_, fun a ha => ?_⟩⟩
  · exact (step_readFb hoff h).trans (congrArg _ (hbusy hb off))
  · exact (step_readFb hoff h).trans (congrArg _ (hexact hb off))
  · exact step_writeFb hoff h
  · exact s.fb.read_write_same off _
  · exact s.fb.read_write_other ha _

/-- Settles O33: the read does not look at BUSY; the write by what a byte memory returns after it. -/
theorem inputBufferHostAccess : Obligations.InputBufferHostAccess := by
  intro s rest off v hoff
  refine ⟨step_readIbuf hoff, fun h => ⟨s.ibuf.write off (v.setWidth 8), ?_, ?_, fun a ha => ?_⟩⟩
  · exact step_writeIbuf hoff h
  · exact s.ibuf.read_write_same off _
  · exact s.ibuf.read_write_other ha _

/-! ### Reset -/

/-- R200: a turn of the platform's reset input, whatever the phase. -/
theorem step_of_reset {s : State} {rest : List Turn} (h : s.script = .reset :: rest) :
    step s = .next (platformReset { s with script := rest }) := by
  simp only [step, takeTurn, h]

/-- R41, R42: a memory in which nothing has been written holds its draw at every offset. -/
theorem ByteMem.read_unwritten (draw a : Nat) : ByteMem.read ⟨[], draw⟩ a = Config.freeByte draw a := rfl

/-- Settles O36: the step does not look at the phase, its next state lists R45's values, and nothing is written in
the two memories. -/
theorem platformReset_effect : Obligations.PlatformReset := by
  intro s rest hturn
  exact ⟨platformReset { s with script := rest }, step_of_reset hturn, rfl, rfl, rfl, rfl, rfl, rfl, rfl, rfl, rfl,
    rfl, rfl, rfl, rfl, rfl, rfl, ByteMem.read_unwritten s.draws, ByteMem.read_unwritten (s.draws + 1), rfl, rfl, rfl⟩

end Sys2Proof.Machine
end
